-- ==== Sys2Proof/Word.lean ====
section
/-! DEFINITION. The widths the spec names (00_scope.md R4, R5): bytes, 16-bit words and
addresses, register numbers, key numbers, nibbles and 12-bit address operands. Every value of
this hardware is an unsigned number of a stated width (R5). -/

namespace Sys2Proof

/-- A data register's content, a memory byte, a timer (R4 `REG_WIDTH`). -/
abbrev Byte := BitVec 8

/-- An instruction word (R40). -/
abbrev Word := BitVec 16

/-- An address value: `I`, `ip`, a stack slot (R4 `ADDR_WIDTH`). -/
abbrev Addr := BitVec 16

/-- A register operand; every 4-bit value names a register (R8). -/
abbrev Reg := BitVec 4

/-- A key number, 0 to 15 (R17). -/
abbrev Key := BitVec 4

/-- A 4-bit count or nibble (R42). -/
abbrev Nibble := BitVec 4

/-- The 12-bit address operand NNN (R42). -/
abbrev Imm12 := BitVec 12

/-- `VF`, the flag register, is `V[15]` (R9). -/
abbrev regVF : Reg := 15#4

/-- `V0`, the register JUMP-OFFSET adds (R70). -/
abbrev regV0 : Reg := 0#4

end Sys2Proof
end

