-- ==== Sys2Proof/Config.lean ====
section
/-! DEFINITION. What one machine fixes (the OPEN parameters of 00_scope.md R4) and the one free
value of the spec, the byte a RAND draws (60_exceptions.md R114). -/

namespace Sys2Proof

/-- `FONT_TABLE`, 80 bytes (R4, R26). -/
abbrev FontTable := Vector Byte 80

/-- The three open parameters of R4. They are carried beside the state and no operation changes
them (10_state.md R21); a statement over every state is a statement over every configuration. -/
structure Config where
  /-- `SETALL_WORD`: the word that decodes as SET-ALL, if the extension is present (R45). -/
  setAllWord : Option Word
  /-- `FONT_TABLE` (R26). -/
  fontTable : FontTable
  /-- `TICK_BUDGET`, instructions per Tick, at least 1 (R54). -/
  tickBudget : Nat
  deriving DecidableEq, Repr

/-- The free byte of the `n`-th draw (R114: "a free input under no law"). It has no body, so
nothing can be proved of its value. DESIGN CHOICE, safe: log 3. -/
opaque Config.draw8 : Nat → Byte

end Sys2Proof
end

