-- ==== Sys2Proof/Machine/Memory.lean ====
section
/-! DEFINITION. Main memory (20_memory.md R23 to R26): 4096 bytes, held as the list of the bytes
that differ from what reset leaves, and the font table's default contents. -/

namespace Sys2Proof.Machine

/-- `MEM_SIZE` (00_scope.md R4); an address is valid iff it is below it (R24). -/
def memSize : Nat := 4096

/-- `LOAD_BASE` (00_scope.md R4). -/
def loadBase : Nat := 0x200

/-- `FONT_BASE` (00_scope.md R4). -/
def fontBase : Nat := 0x050

/-- Glyphs 0 to 7 of R26. -/
def fontLow : List Byte :=
  [ 0xF0, 0x90, 0x90, 0x90, 0xF0,  0x20, 0x60, 0x20, 0x20, 0x70,
    0xF0, 0x10, 0xF0, 0x80, 0xF0,  0xF0, 0x10, 0xF0, 0x10, 0xF0,
    0x90, 0x90, 0xF0, 0x10, 0x10,  0xF0, 0x80, 0xF0, 0x10, 0xF0,
    0xF0, 0x80, 0xF0, 0x90, 0xF0,  0xF0, 0x10, 0x20, 0x40, 0x40 ]

/-- Glyphs 8 to F of R26. -/
def fontHigh : List Byte :=
  [ 0xF0, 0x90, 0xF0, 0x90, 0xF0,  0xF0, 0x90, 0xF0, 0x10, 0xF0,
    0xF0, 0x90, 0xF0, 0x90, 0x90,  0xE0, 0x90, 0xE0, 0x90, 0xE0,
    0xF0, 0x80, 0x80, 0x80, 0xF0,  0xE0, 0x90, 0x90, 0x90, 0xE0,
    0xF0, 0x80, 0xF0, 0x80, 0xF0,  0xF0, 0x80, 0xF0, 0x80, 0x80 ]

/-- The default of `FONT_TABLE` (R26; the spec marks it as general knowledge). -/
def defaultFont : FontTable := Vector.ofFn (fun i => (fontLow ++ fontHigh).getD i.val 0)

/-- The default configuration: no SET-ALL (R45), the font of R26. The spec gives `TICK_BUDGET` no
default; 1 is the model's. DESIGN CHOICE, unsafe: log 5. -/
def defaultConfig : Config := { setAllWord := none, fontTable := defaultFont, tickBudget := 1 }

/-- Main memory: (address, byte) pairs in the canonical form of `Memory.wf`. -/
abbrev Memory := List Host.Cell

/-- What an unlisted address reads as: the contents R25 gives at reset. -/
def memBackground (font : FontTable) (a : Nat) : Byte :=
  if fontBase ≤ a ∧ a < fontBase + 80 then font.getD (a - fontBase) 0 else 0

/-- The listed byte at an address. -/
def Memory.find : Memory → Nat → Option Byte
  | [], _ => none
  | (k, b) :: m, a => if k = a then some b else Memory.find m a

/-- The byte at an address (R33 (b): the most recent write, else the reset contents). -/
def Memory.read (font : FontTable) (m : Memory) (a : Nat) : Byte :=
  (Memory.find m a).getD (memBackground font a)

/-- Insert or replace a listed byte, keeping the addresses rising. -/
def Memory.put : Memory → Nat → Byte → Memory
  | [], a, b => [(a, b)]
  | (k, c) :: m, a, b =>
    if a < k then (a, b) :: (k, c) :: m
    else if a = k then (a, b) :: m
    else (k, c) :: Memory.put m a b

/-- Remove every listed byte at an address. -/
def Memory.drop : Memory → Nat → Memory
  | [], _ => []
  | (k, c) :: m, a => if k = a then Memory.drop m a else (k, c) :: Memory.drop m a

/-- Write one byte (R31). No byte exists at `memSize` and above: every instruction and Load check
their range first, so the last case is never reached (log 11). -/
def Memory.write (font : FontTable) (m : Memory) (a : Nat) (b : Byte) : Memory :=
  if a < memSize then
    if b = memBackground font a then Memory.drop m a else Memory.put m a b
  else m

/-- The canonical form: addresses strictly rising and valid (R24), and no entry equal to what an
unlisted address reads as. -/
abbrev Memory.wf (font : FontTable) (m : Memory) : Prop :=
  m.Pairwise (fun c d => c.1 < d.1) ∧ ∀ c ∈ m, c.1 < memSize ∧ c.2 ≠ memBackground font c.1

end Sys2Proof.Machine
end

