-- ==== Sys2Proof/Machine/State.lean ====
section
/-! DEFINITION. The machine's state (10_state.md), the kinds of halt and fault (60_exceptions.md),
and the state after reset (10_state.md R22). -/

namespace Sys2Proof.Machine

/-- The kinds of fault the latch holds (R19, R104). -/
inductive FaultKind where
  /-- CALL with sp = 16 (R101). -/
  | stackOverflow
  /-- RET with sp = 0 (R102). -/
  | stackUnderflow
  /-- A data access at 4096 or above (R103). -/
  | memOutOfRange
  deriving DecidableEq, Repr

/-- The reasons a tick halts without an error (R7, R98). -/
inductive HaltReason where
  /-- A byte of the word at ip does not exist (R99). -/
  | fetchOutOfRange
  /-- The fetched word matches no row of the opcode map (R100). -/
  | unrecognized
  deriving DecidableEq, Repr

/-- Why `step` stops the machine. -/
inductive Fault where
  /-- Raised by `step` on a core whose fault latch is set (R56: Tick "performs no step, changes no
  state"; 93_implementation_defined.md entry 14: stuck). Safe. -/
  | latched (k : FaultKind)
  deriving DecidableEq, Repr

/-- What the model gives no meaning. -/
inductive Refusal where
  /-- Raised by an arm of `exec` for an instruction without a meaning; there is none. Safe. -/
  | notModelled (mnemonic : String)
  /-- Raised by `step` and the tick where the configuration is not a legal one (R45, R54;
  93_implementation_defined.md entries 16 and 17: refuse). Safe. -/
  | illegalConfig
  /-- Raised by Load of more than 3584 bytes (R38; entry 13: refuse). Safe. -/
  | loadTooLong
  /-- Raised by Load after the first Tick since Reset (R38; entry 13: refuse). Safe. -/
  | loadAfterTick
  deriving DecidableEq, Repr

/-- The display: 32 rows of 64 columns; column `c` of a row is bit `c` of its 64 (R16). -/
abbrev Display := Vector (BitVec 64) 32

/-- Everything the spec gives the machine, its configuration, and two fields of the model's own
(`started`, `draws`). -/
structure State where
  /-- `V0` to `VF` (R8, R9). -/
  v : Vector Byte 16
  /-- `I`, the address register (R10). -/
  i : Addr
  /-- `ip`, the instruction pointer (R11). -/
  ip : Addr
  /-- `sp`, the number of return addresses held, 0 to 16 (R12). -/
  sp : Fin 17
  /-- `stack[0]` to `stack[15]` (R12). -/
  stack : Vector Addr 16
  /-- `DT`, the delay timer (R13). -/
  dt : Byte
  /-- `ST`, the sound timer (R14). -/
  st : Byte
  /-- Main memory (R15). -/
  mem : Memory
  /-- The display surface (R16). -/
  disp : Display
  /-- The key levels (R17). -/
  key : Vector Bool 16
  /-- The released-key latch (R18). -/
  released : Option Key
  /-- The fault latch (R19). -/
  fault : Option FaultKind
  /-- The open parameters (00_scope.md R4); no operation changes them. -/
  cfg : Config
  /-- The model's own: a Tick has fetched since the last Reset (R38 needs it). Log 7. -/
  started : Bool
  /-- The model's own: how many free bytes RAND has drawn (R114). Log 3. -/
  draws : Nat
  deriving DecidableEq, Repr

/-- One step's answer. -/
abbrev Answer := Host.Outcome State Fault Refusal

/-- The state of R22 on a machine with this configuration. -/
def State.resetWith (c : Config) : State :=
  { v := Vector.replicate 16 0
    i := 0
    ip := 0x0200
    sp := 0
    stack := Vector.replicate 16 0
    dt := 0
    st := 0
    mem := []
    disp := Vector.replicate 32 0
    key := Vector.replicate 16 false
    released := none
    fault := none
    cfg := c
    started := false
    draws := 0 }

/-- The machine right after reset (R22, R121), in the default configuration (log 4, 5). -/
def State.reset : State := State.resetWith defaultConfig

end Sys2Proof.Machine
end

