-- ==== Sys2Proof/Machine/Ops.lean ====
section
/-! DEFINITION. The named operations over registers, memory, stack and display, and raising a
fault: the pseudocode primitives of 00_scope.md R6. -/

namespace Sys2Proof.Machine

/-- `V[x]` (R6, R8). -/
def State.getV (s : State) (x : Reg) : Byte := s.v[x.toNat]'x.isLt

/-- `V[x] <- b` (R6). -/
def State.setV (s : State) (x : Reg) (b : Byte) : State :=
  { s with v := s.v.set x.toNat b x.isLt }

/-- `I <- a` (R6). -/
def State.setI (s : State) (a : Addr) : State := { s with i := a }

/-- `ip <- a` (R6). -/
def State.setIp (s : State) (a : Addr) : State := { s with ip := a }

/-- A further `ip <- (ip + 2) mod 2^16` when the condition holds (R11, R66). -/
def State.skipIf (s : State) (c : Bool) : State := if c then s.setIp (s.ip + 2) else s

/-- The byte of main memory at an address. -/
def State.readByte (s : State) (a : Nat) : Byte := Memory.read s.cfg.fontTable s.mem a

/-- The byte at an address, if the address is valid (R24). -/
def State.byteAt? (s : State) (a : Nat) : Option Byte :=
  if a < memSize then some (s.readByte a) else none

/-- `MemWrite(a, 1, b)` (R6). -/
def State.writeByte (s : State) (a : Nat) (b : Byte) : State :=
  { s with mem := Memory.write s.cfg.fontTable s.mem a b }

/-- Independent bytes at ascending addresses (R28). -/
def State.writeBytes (s : State) (a : Nat) : List Byte → State
  | [] => s
  | b :: bs => State.writeBytes (s.writeByte a b) (a + 1) bs

/-- R31: the `n` bytes from `a` are all valid addresses, in unbounded integers; no byte at all is
always in range. -/
def rangeOk (a : Addr) (n : Nat) : Bool := n == 0 || decide (a.toNat + n ≤ memSize)

/-- `raise k` (R6, R106): the instruction ends, the latch takes the kind, nothing else changes
(the ip advance of fetch has been made). The step's `Fault(k)` and Tick's `fault <- k` are one
event here. DEDUCED, safe: log 2. -/
def raiseFault (k : FaultKind) (s : State) : Answer := .next { s with fault := some k }

/-- `Push(a)` (R62), then the rest of the instruction. -/
def State.push (s : State) (a : Addr) : State :=
  { s with stack := s.stack.setIfInBounds s.sp.val a, sp := s.sp + 1 }

/-- The slot `stack[sp - 1]` (R62). -/
def State.top (s : State) : Addr := s.stack.getD (s.sp.val - 1) 0

/-- `sp <- sp - 1` of `Pop()` (R62). -/
def State.dropTop (s : State) : State := { s with sp := s.sp - 1 }

/-- `DispGet(r, c)` (R57). -/
def dispGet (d : Display) (r : Fin 32) (c : Fin 64) : Bool := d[r].getLsbD c.val

/-- `DispSet(r, c, b)` (R57). -/
def dispSet (d : Display) (r : Fin 32) (c : Fin 64) (b : Bool) : Display :=
  d.set r.val
    (if b then d[r] ||| BitVec.twoPow 64 c.val else d[r] &&& ~~~(BitVec.twoPow 64 c.val))

/-- `DispClear()` (R57). -/
def dispClear : Display := Vector.replicate 32 0#64

/-- `DispSetAll()` (R57). -/
def dispSetAll : Display := Vector.replicate 32 (BitVec.allOnes 64)

/-- A fault's label (R104). -/
def faultCode : Option FaultKind → Nat
  | none => 0
  | some .stackOverflow => 1
  | some .stackUnderflow => 2
  | some .memOutOfRange => 3

end Sys2Proof.Machine
end

