-- ==== Sys2Proof/Machine/Operands.lean ====
section
/-! DEFINITION. The operand forms (30_encoding.md R42, 44_index_memory.md R131): immediates,
key numbers, glyph addresses, start coordinates, and the bytes a memory instruction moves. -/

namespace Sys2Proof.Machine

/-- NNN zero-extended to 16 bits (R42). -/
def addrOf (nnn : Imm12) : Addr := nnn.setWidth 16

/-- `V[X] & 0x0F` as a key number (R92, R93). -/
def State.keyOperand (s : State) (x : Reg) : Key := (s.getV x).extractLsb' 0 4

/-- `key[k]` (R17). -/
def State.keyDown (s : State) (k : Key) : Bool := s.key[k.toNat]'k.isLt

/-- `0x050 + 5 * (V[X] & 0x0F)` (R88). -/
def glyphAddr (b : Byte) : Addr := BitVec.ofNat 16 (fontBase + 5 * (b &&& 0x0F#8).toNat)

/-- The start column `V[X] & 63` (R60). -/
def State.startCol (s : State) (x : Reg) : Nat := (s.getV x &&& 63#8).toNat

/-- The start row `V[Y] & 31` (R60). -/
def State.startRow (s : State) (y : Reg) : Nat := (s.getV y &&& 31#8).toNat

/-- The three decimal digits of a byte, hundreds first (R89). -/
def bcdDigits (b : Byte) : List Byte :=
  [ BitVec.ofNat 8 (b.toNat / 100),
    BitVec.ofNat 8 (b.toNat / 10 % 10),
    BitVec.ofNat 8 (b.toNat % 10) ]

/-- `V[0], ..., V[X]`, in that order (R90). -/
def State.regsUpTo (s : State) (x : Reg) : List Byte :=
  (List.range (x.toNat + 1)).map (fun k => s.getV (BitVec.ofNat 4 k))

/-- `for i in 0 .. X: V[i] <- MemRead(I + i, 1)` (R91), the first `n` registers. -/
def State.loadFirst (s : State) : Nat → State
  | 0 => s
  | n + 1 =>
    let t := s.loadFirst n
    t.setV (BitVec.ofNat 4 n) (t.readByte (t.i.toNat + n))

end Sys2Proof.Machine
end

