-- ==== Sys2Proof/Machine/Flags.lean ====
section
/-! DEFINITION. The arithmetic laws (43_alu.md R72) and the flag register (R9, R73): each flag is
the full byte 0x00 or 0x01, written after the result. -/

namespace Sys2Proof.Machine

/-- A flag as the full byte 0x00 or 0x01 (R9, R73). -/
def flagByte (c : Bool) : Byte := if c then 1#8 else 0#8

/-- Carry of `a + b`: the exact sum exceeds 255 (R72). -/
def carryFlag (a b : Byte) : Byte := flagByte (decide (255 < a.toNat + b.toNat))

/-- Not borrow of `a - b`: `a >= b` (R72). -/
def notBorrowFlag (a b : Byte) : Byte := flagByte (decide (b.toNat ≤ a.toNat))

/-- The bit a right shift by one shifts out, `b[0]` (R72). -/
def lowBitFlag (b : Byte) : Byte := flagByte (b.getLsbD 0)

/-- The bit a left shift by one shifts out, `b[7]` (R72). -/
def highBitFlag (b : Byte) : Byte := flagByte (b.getLsbD 7)

/-- R73: write `V[X] <- result`, then `V[15] <- flag`. -/
def State.setResultFlag (s : State) (x : Reg) (result flag : Byte) : State :=
  (s.setV x result).setV regVF flag

end Sys2Proof.Machine
end

