-- ==== Sys2Proof/Machine/Alu.lean ====
section
/-! DEFINITION. The register and ALU instructions (43_alu.md). -/

namespace Sys2Proof.Machine

/-- R74. -/
def execLoad (x : Reg) (nn : Byte) (s : State) : Answer := .next (s.setV x nn)

/-- R75. -/
def execAdd (x : Reg) (nn : Byte) (s : State) : Answer := .next (s.setV x (s.getV x + nn))

/-- R76. -/
def execMov (x y : Reg) (s : State) : Answer := .next (s.setV x (s.getV y))

/-- R77. -/
def execOr (x y : Reg) (s : State) : Answer := .next (s.setV x (s.getV x ||| s.getV y))

/-- R78. -/
def execAnd (x y : Reg) (s : State) : Answer := .next (s.setV x (s.getV x &&& s.getV y))

/-- R79. -/
def execXor (x y : Reg) (s : State) : Answer := .next (s.setV x (s.getV x ^^^ s.getV y))

/-- R80. -/
def execAddReg (x y : Reg) (s : State) : Answer :=
  let a := s.getV x
  let b := s.getV y
  .next (s.setResultFlag x (a + b) (carryFlag a b))

/-- R81. -/
def execSub (x y : Reg) (s : State) : Answer :=
  let a := s.getV x
  let b := s.getV y
  .next (s.setResultFlag x (a - b) (notBorrowFlag a b))

/-- R82: the source operand is `V[Y]`. -/
def execShr (x y : Reg) (s : State) : Answer :=
  let b := s.getV y
  .next (s.setResultFlag x (b >>> 1) (lowBitFlag b))

/-- R83: the subtraction performed is `V[Y] - V[X]` (90_conflicts.md C4). -/
def execSubn (x y : Reg) (s : State) : Answer :=
  let a := s.getV x
  let b := s.getV y
  .next (s.setResultFlag x (b - a) (notBorrowFlag b a))

/-- R84: the source operand is `V[Y]`. -/
def execShl (x y : Reg) (s : State) : Answer :=
  let b := s.getV y
  .next (s.setResultFlag x (b <<< 1) (highBitFlag b))

/-- R85: the drawn byte is a free value (R114). -/
def execRand (x : Reg) (nn : Byte) (s : State) : Answer :=
  .next ({ s with draws := s.draws + 1 }.setV x (Config.draw8 s.draws &&& nn))

end Sys2Proof.Machine
end

