-- ==== Sys2Proof/Machine/Control.lean ====
section
/-! DEFINITION. The control transfers (42_control_flow.md). ip is already the instruction's
address plus 2. -/

namespace Sys2Proof.Machine

/-- R63. -/
def execRet (s : State) : Answer :=
  if s.sp = 0 then raiseFault .stackUnderflow s
  else .next (s.dropTop.setIp s.top)

/-- R64. -/
def execJump (nnn : Imm12) (s : State) : Answer := .next (s.setIp (addrOf nnn))

/-- R65. -/
def execCall (nnn : Imm12) (s : State) : Answer :=
  if s.sp = 16 then raiseFault .stackOverflow s
  else .next ((s.push s.ip).setIp (addrOf nnn))

/-- R66. -/
def execSkipEq (x : Reg) (nn : Byte) (s : State) : Answer := .next (s.skipIf (s.getV x == nn))

/-- R67. -/
def execSkipNeq (x : Reg) (nn : Byte) (s : State) : Answer := .next (s.skipIf (s.getV x != nn))

/-- R68. -/
def execSkipEqReg (x y : Reg) (s : State) : Answer := .next (s.skipIf (s.getV x == s.getV y))

/-- R69. -/
def execSkipNeqReg (x y : Reg) (s : State) : Answer := .next (s.skipIf (s.getV x != s.getV y))

/-- R70. -/
def execJumpOffset (nnn : Imm12) (s : State) : Answer :=
  .next (s.setIp (addrOf nnn + (s.getV regV0).setWidth 16))

end Sys2Proof.Machine
end

