-- ==== Sys2Proof/Machine/DisplayOps.lean ====
section
/-! DEFINITION. The display instructions CLS, SET-ALL and DRAW (41_display.md). -/

namespace Sys2Proof.Machine

/-- R58. -/
def execCls (s : State) : Answer := .next { s with disp := dispClear }

/-- R59. -/
def execSetAll (s : State) : Answer := .next { s with disp := dispSetAll }

/-- A display column from an unbounded number, modulo 64 (R60: horizontal wrap). -/
def wrapCol (n : Nat) : Fin 64 := ⟨n % 64, Nat.mod_lt _ (by decide)⟩

/-- A display row from an unbounded number, modulo 32 (R60: vertical wrap). -/
def wrapRow (n : Nat) : Fin 32 := ⟨n % 32, Nat.mod_lt _ (by decide)⟩

/-- One pixel of the blit (R60, the inner loop's body): sprite bit `k` of byte `b`, on row `r`,
start column `x0`; the pair is the display and whether a bit went from 1 to 0. -/
def drawPixel (r : Fin 32) (x0 : Nat) (b : Byte) (p : Display × Bool) (k : Nat) : Display × Bool :=
  let bit := b.getLsbD (7 - k)
  let c := wrapCol (x0 + k)
  let old := dispGet p.1 r c
  let new := old ^^ bit
  (dispSet p.1 r c new, p.2 || (old && !new))

/-- One sprite row (R60): bits 7 down to 0 at columns `x0`, `x0 + 1`, ..., wrapping. -/
def drawRow (r : Fin 32) (x0 : Nat) (b : Byte) (p : Display × Bool) : Display × Bool :=
  (List.range 8).foldl (drawPixel r x0 b) p

/-- The first `n` sprite rows (R60), row `j` from the byte at `base + j`, on display row
`(y0 + j) mod 32`. -/
def drawRows (byteAt : Nat → Byte) (base x0 y0 : Nat) : Nat → Display × Bool → Display × Bool
  | 0, p => p
  | n + 1, p =>
    drawRow (wrapRow (y0 + n)) x0 (byteAt (base + n)) (drawRows byteAt base x0 y0 n p)

/-- The blit of R60 from a state: the new display and the collision. -/
def State.blit (s : State) (x y : Reg) (n : Nibble) : Display × Bool :=
  drawRows s.readByte s.i.toNat (s.startCol x) (s.startRow y) n.toNat (s.disp, false)

/-- R60: the range check, the blit, VF last. -/
def execDraw (x y : Reg) (n : Nibble) (s : State) : Answer :=
  if rangeOk s.i n.toNat then
    let p := s.blit x y n
    .next ({ s with disp := p.1 }.setV regVF (flagByte p.2))
  else raiseFault .memOutOfRange s

end Sys2Proof.Machine
end

