-- ==== Sys2Proof/Machine/Index.lean ====
section
/-! DEFINITION. The address register and memory instructions (44_index_memory.md). The range is
checked once before any access (20_memory.md R31). -/

namespace Sys2Proof.Machine

/-- R86. -/
def execLoadI (nnn : Imm12) (s : State) : Answer := .next (s.setI (addrOf nnn))

/-- R87. -/
def execAddI (x : Reg) (s : State) : Answer := .next (s.setI (s.i + (s.getV x).setWidth 16))

/-- R88. -/
def execFontAddr (x : Reg) (s : State) : Answer := .next (s.setI (glyphAddr (s.getV x)))

/-- R89. -/
def execBcd (x : Reg) (s : State) : Answer :=
  if rangeOk s.i 3 then .next (s.writeBytes s.i.toNat (bcdDigits (s.getV x)))
  else raiseFault .memOutOfRange s

/-- R90. -/
def execStoreRegs (x : Reg) (s : State) : Answer :=
  if rangeOk s.i (x.toNat + 1) then .next (s.writeBytes s.i.toNat (s.regsUpTo x))
  else raiseFault .memOutOfRange s

/-- R91. -/
def execLoadRegs (x : Reg) (s : State) : Answer :=
  if rangeOk s.i (x.toNat + 1) then .next (s.loadFirst (x.toNat + 1))
  else raiseFault .memOutOfRange s

end Sys2Proof.Machine
end

