-- ==== Sys2Proof/Machine/KeyTimer.lean ====
section
/-! DEFINITION. The keyboard and timer instructions (45_keyboard_timer.md). -/

namespace Sys2Proof.Machine

/-- R92. -/
def execSkipKey (x : Reg) (s : State) : Answer := .next (s.skipIf (s.keyDown (s.keyOperand x)))

/-- R93. -/
def execSkipNokey (x : Reg) (s : State) : Answer := .next (s.skipIf (!s.keyDown (s.keyOperand x)))

/-- R94. -/
def execLoadDelay (x : Reg) (s : State) : Answer := .next (s.setV x s.dt)

/-- R95: the latched key, or back to this instruction's own address. -/
def execWaitKey (x : Reg) (s : State) : Answer :=
  match s.released with
  | some k => .next (s.setV x (k.setWidth 8))
  | none => .next (s.setIp (s.ip - 2))

/-- R96. -/
def execSetDelay (x : Reg) (s : State) : Answer := .next { s with dt := s.getV x }

/-- R97. -/
def execSetSound (x : Reg) (s : State) : Answer := .next { s with st := s.getV x }

end Sys2Proof.Machine
end

