-- ==== Sys2Proof/Syntax.lean ====
section
/-! DEFINITION. The 35 instructions of 30_encoding.md R44, one constructor per row of
spec/opcode_table.json, with the operands of R42. -/

namespace Sys2Proof

/-- One instruction. Operands are named as in R41 and R42: `x`, `y` registers, `nn` a byte,
`nnn` a 12-bit address, `n` the sprite's row count. -/
inductive Instr where
  /-- CLS (R58). -/
  | cls
  /-- SET-ALL (R59). -/
  | setAll
  /-- RET (R63). -/
  | ret
  /-- JUMP NNN (R64). -/
  | jump (nnn : Imm12)
  /-- CALL NNN (R65). -/
  | call (nnn : Imm12)
  /-- SKIP-EQ X,NN (R66). -/
  | skipEq (x : Reg) (nn : Byte)
  /-- SKIP-NEQ X,NN (R67). -/
  | skipNeq (x : Reg) (nn : Byte)
  /-- SKIP-EQ-REG X,Y (R68). -/
  | skipEqReg (x y : Reg)
  /-- LOAD X,NN (R74). -/
  | load (x : Reg) (nn : Byte)
  /-- ADD X,NN (R75). -/
  | add (x : Reg) (nn : Byte)
  /-- MOV X,Y (R76). -/
  | mov (x y : Reg)
  /-- OR X,Y (R77). -/
  | or (x y : Reg)
  /-- AND X,Y (R78). -/
  | and (x y : Reg)
  /-- XOR X,Y (R79). -/
  | xor (x y : Reg)
  /-- ADD-REG X,Y (R80). -/
  | addReg (x y : Reg)
  /-- SUB X,Y (R81). -/
  | sub (x y : Reg)
  /-- SHR X,Y (R82). -/
  | shr (x y : Reg)
  /-- SUBN X,Y (R83). -/
  | subn (x y : Reg)
  /-- SHL X,Y (R84). -/
  | shl (x y : Reg)
  /-- SKIP-NEQ-REG X,Y (R69). -/
  | skipNeqReg (x y : Reg)
  /-- LOAD-I NNN (R86). -/
  | loadI (nnn : Imm12)
  /-- JUMP-OFFSET NNN (R70). -/
  | jumpOffset (nnn : Imm12)
  /-- RAND X,NN (R85). -/
  | rand (x : Reg) (nn : Byte)
  /-- DRAW X,Y,N (R60). -/
  | draw (x y : Reg) (n : Nibble)
  /-- SKIP-KEY X (R92). -/
  | skipKey (x : Reg)
  /-- SKIP-NOKEY X (R93). -/
  | skipNokey (x : Reg)
  /-- LOAD-DELAY X (R94). -/
  | loadDelay (x : Reg)
  /-- WAIT-KEY X (R95). -/
  | waitKey (x : Reg)
  /-- SET-DELAY X (R96). -/
  | setDelay (x : Reg)
  /-- SET-SOUND X (R97). -/
  | setSound (x : Reg)
  /-- ADD-I X (R87). -/
  | addI (x : Reg)
  /-- FONT-ADDR X (R88). -/
  | fontAddr (x : Reg)
  /-- BCD X (R89). -/
  | bcd (x : Reg)
  /-- STORE-REGS X (R90). -/
  | storeRegs (x : Reg)
  /-- LOAD-REGS X (R91). -/
  | loadRegs (x : Reg)
  deriving DecidableEq, Repr

end Sys2Proof
end

