-- ==== Sys2Proof/WellFormed.lean ====
section
/-! DEFINITION. Which instructions exist on a machine. Every operand value is legal
(30_encoding.md R47) and the operands' types admit exactly those values, so the one check is that
SET-ALL exists only when the extension is configured (R45). -/

namespace Sys2Proof

/-- R47 and R45: an instruction is well-formed unless it is SET-ALL on a machine without it. -/
def Instr.wellFormed (setAll : Option Word) : Instr → Bool
  | .setAll => setAll.isSome
  | .cls | .ret | .jump _ | .call _ | .skipEq _ _ | .skipNeq _ _ | .skipEqReg _ _ => true
  | .load _ _ | .add _ _ | .mov _ _ | .or _ _ | .and _ _ | .xor _ _ => true
  | .addReg _ _ | .sub _ _ | .shr _ _ | .subn _ _ | .shl _ _ | .skipNeqReg _ _ => true
  | .loadI _ | .jumpOffset _ | .rand _ _ | .draw _ _ _ => true
  | .skipKey _ | .skipNokey _ | .loadDelay _ | .waitKey _ | .setDelay _ | .setSound _ => true
  | .addI _ | .fontAddr _ | .bcd _ | .storeRegs _ | .loadRegs _ => true

/-- R54: the tick budget is an integer of at least 1. -/
def Config.budgetLegal (c : Config) : Bool := decide (1 ≤ c.tickBudget)

end Sys2Proof
end

