-- ==== Sys2Proof/Decode.lean ====
section
/-! DEFINITION. The decoder and the encoder: the opcode map of 30_encoding.md R44 as a list of
mask and match rows, the operand fields of R42, and the unrecognized words of R46. -/

namespace Sys2Proof

/-- Operand X, `w[11:8]` (R42). -/
def fieldX (w : Word) : Reg := w.extractLsb' 8 4

/-- Operand Y, `w[7:4]` (R42). -/
def fieldY (w : Word) : Reg := w.extractLsb' 4 4

/-- Operand N, `w[3:0]` (R42). -/
def fieldN (w : Word) : Nibble := w.extractLsb' 0 4

/-- Operand NN, `w[7:0]` (R42). -/
def fieldNN (w : Word) : Byte := w.extractLsb' 0 8

/-- Operand NNN, `w[11:0]` (R42). -/
def fieldNNN (w : Word) : Imm12 := w.extractLsb' 0 12

/-- One row of the opcode map: its mask, its match value and the instruction it names. -/
structure OpRow where
  mask : Word
  pat : Word
  build : Word → Instr

/-- R44: a word selects the row whose `(w & mask) == match`. -/
def OpRow.hit (r : OpRow) (w : Word) : Bool := w &&& r.mask == r.pat

/-- Rows 1 and 3 of R44. -/
def rowsFixed : List OpRow :=
  [ ⟨0xFFFF, 0x00E0, fun _ => .cls⟩,
    ⟨0xFFFF, 0x00EE, fun _ => .ret⟩ ]

/-- Rows 4 to 10 of R44. -/
def rowsImmediate : List OpRow :=
  [ ⟨0xF000, 0x1000, fun w => .jump (fieldNNN w)⟩,
    ⟨0xF000, 0x2000, fun w => .call (fieldNNN w)⟩,
    ⟨0xF000, 0x3000, fun w => .skipEq (fieldX w) (fieldNN w)⟩,
    ⟨0xF000, 0x4000, fun w => .skipNeq (fieldX w) (fieldNN w)⟩,
    ⟨0xF00F, 0x5000, fun w => .skipEqReg (fieldX w) (fieldY w)⟩,
    ⟨0xF000, 0x6000, fun w => .load (fieldX w) (fieldNN w)⟩,
    ⟨0xF000, 0x7000, fun w => .add (fieldX w) (fieldNN w)⟩ ]

/-- Rows 11 to 19 of R44. -/
def rowsAlu : List OpRow :=
  [ ⟨0xF00F, 0x8000, fun w => .mov (fieldX w) (fieldY w)⟩,
    ⟨0xF00F, 0x8001, fun w => .or (fieldX w) (fieldY w)⟩,
    ⟨0xF00F, 0x8002, fun w => .and (fieldX w) (fieldY w)⟩,
    ⟨0xF00F, 0x8003, fun w => .xor (fieldX w) (fieldY w)⟩,
    ⟨0xF00F, 0x8004, fun w => .addReg (fieldX w) (fieldY w)⟩,
    ⟨0xF00F, 0x8005, fun w => .sub (fieldX w) (fieldY w)⟩,
    ⟨0xF00F, 0x8006, fun w => .shr (fieldX w) (fieldY w)⟩,
    ⟨0xF00F, 0x8007, fun w => .subn (fieldX w) (fieldY w)⟩,
    ⟨0xF00F, 0x800E, fun w => .shl (fieldX w) (fieldY w)⟩ ]

/-- Rows 20 to 24 of R44. -/
def rowsUpper : List OpRow :=
  [ ⟨0xF00F, 0x9000, fun w => .skipNeqReg (fieldX w) (fieldY w)⟩,
    ⟨0xF000, 0xA000, fun w => .loadI (fieldNNN w)⟩,
    ⟨0xF000, 0xB000, fun w => .jumpOffset (fieldNNN w)⟩,
    ⟨0xF000, 0xC000, fun w => .rand (fieldX w) (fieldNN w)⟩,
    ⟨0xF000, 0xD000, fun w => .draw (fieldX w) (fieldY w) (fieldN w)⟩ ]

/-- Rows 25 to 35 of R44. -/
def rowsLowByte : List OpRow :=
  [ ⟨0xF0FF, 0xE09E, fun w => .skipKey (fieldX w)⟩,
    ⟨0xF0FF, 0xE0A1, fun w => .skipNokey (fieldX w)⟩,
    ⟨0xF0FF, 0xF007, fun w => .loadDelay (fieldX w)⟩,
    ⟨0xF0FF, 0xF00A, fun w => .waitKey (fieldX w)⟩,
    ⟨0xF0FF, 0xF015, fun w => .setDelay (fieldX w)⟩,
    ⟨0xF0FF, 0xF018, fun w => .setSound (fieldX w)⟩,
    ⟨0xF0FF, 0xF01E, fun w => .addI (fieldX w)⟩,
    ⟨0xF0FF, 0xF029, fun w => .fontAddr (fieldX w)⟩,
    ⟨0xF0FF, 0xF033, fun w => .bcd (fieldX w)⟩,
    ⟨0xF0FF, 0xF055, fun w => .storeRegs (fieldX w)⟩,
    ⟨0xF0FF, 0xF065, fun w => .loadRegs (fieldX w)⟩ ]

/-- The 34 baseline rows of R44 (all but row 2). -/
def baseRows : List OpRow :=
  rowsFixed ++ (rowsImmediate ++ (rowsAlu ++ (rowsUpper ++ rowsLowByte)))

/-- Row 2 of R44, present only when `SETALL_WORD` is set (R45). -/
def setAllRows : Option Word → List OpRow
  | none => []
  | some w => [⟨0xFFFF, w, fun _ => .setAll⟩]

/-- The whole map of R44 on a machine with this `SETALL_WORD`. -/
def opRows (setAll : Option Word) : List OpRow := baseRows ++ setAllRows setAll

/-- Why bytes are no instruction. -/
inductive Reject where
  /-- The word matches no row of R44 (R46). -/
  | unrecognized (w : Word)
  /-- Fewer than two bytes: no word to decode (R30, R40). -/
  | truncated
  deriving DecidableEq, Repr

/-- R43, R44, R46: the row a word selects, or `unrecognized`. -/
def decode (setAll : Option Word) (w : Word) : Except Reject Instr :=
  match (opRows setAll).find? (fun r => r.hit w) with
  | some r => .ok (r.build w)
  | none => .error (.unrecognized w)

/-- R27: the byte at the lower address is the high byte of the word. -/
def wordOf (hi lo : Byte) : Word := hi ++ lo

/-- The byte of a word at the lower address (R27). -/
def highByte (w : Word) : Byte := w.extractLsb' 8 8

/-- The byte of a word at the higher address (R27). -/
def lowByte (w : Word) : Byte := w.extractLsb' 0 8

/-- Decoding from bytes, total on any list (R40: every instruction is two bytes, big-endian). -/
def decodeBytes (setAll : Option Word) : List Byte → Except Reject (Instr × List Byte)
  | hi :: lo :: rest =>
    match decode setAll (wordOf hi lo) with
    | .ok i => .ok (i, rest)
    | .error e => .error e
  | _ => .error .truncated

/-- R45 and R54 (93_implementation_defined.md entries 16 and 17): `SETALL_WORD` matches no other
row, and the tick budget is at least 1. -/
def Config.legal (c : Config) : Bool :=
  c.budgetLegal &&
    match c.setAllWord with
    | none => true
    | some w => !(baseRows.any (fun r => r.hit w))

/-- The encoding of R44, as nibbles from the high end (R41, R42). SET-ALL has a word only where
`SETALL_WORD` gives it one (R45). -/
def encode (setAll : Option Word) : Instr → Option Word
  | .cls => some 0x00E0#16
  | .setAll => setAll
  | .ret => some 0x00EE#16
  | .jump nnn => some (0x1#4 ++ nnn)
  | .call nnn => some (0x2#4 ++ nnn)
  | .skipEq x nn => some (0x3#4 ++ x ++ nn)
  | .skipNeq x nn => some (0x4#4 ++ x ++ nn)
  | .skipEqReg x y => some (0x5#4 ++ x ++ y ++ 0x0#4)
  | .load x nn => some (0x6#4 ++ x ++ nn)
  | .add x nn => some (0x7#4 ++ x ++ nn)
  | .mov x y => some (0x8#4 ++ x ++ y ++ 0x0#4)
  | .or x y => some (0x8#4 ++ x ++ y ++ 0x1#4)
  | .and x y => some (0x8#4 ++ x ++ y ++ 0x2#4)
  | .xor x y => some (0x8#4 ++ x ++ y ++ 0x3#4)
  | .addReg x y => some (0x8#4 ++ x ++ y ++ 0x4#4)
  | .sub x y => some (0x8#4 ++ x ++ y ++ 0x5#4)
  | .shr x y => some (0x8#4 ++ x ++ y ++ 0x6#4)
  | .subn x y => some (0x8#4 ++ x ++ y ++ 0x7#4)
  | .shl x y => some (0x8#4 ++ x ++ y ++ 0xE#4)
  | .skipNeqReg x y => some (0x9#4 ++ x ++ y ++ 0x0#4)
  | .loadI nnn => some (0xA#4 ++ nnn)
  | .jumpOffset nnn => some (0xB#4 ++ nnn)
  | .rand x nn => some (0xC#4 ++ x ++ nn)
  | .draw x y n => some (0xD#4 ++ x ++ y ++ n)
  | .skipKey x => some (0xE#4 ++ x ++ 0x9E#8)
  | .skipNokey x => some (0xE#4 ++ x ++ 0xA1#8)
  | .loadDelay x => some (0xF#4 ++ x ++ 0x07#8)
  | .waitKey x => some (0xF#4 ++ x ++ 0x0A#8)
  | .setDelay x => some (0xF#4 ++ x ++ 0x15#8)
  | .setSound x => some (0xF#4 ++ x ++ 0x18#8)
  | .addI x => some (0xF#4 ++ x ++ 0x1E#8)
  | .fontAddr x => some (0xF#4 ++ x ++ 0x29#8)
  | .bcd x => some (0xF#4 ++ x ++ 0x33#8)
  | .storeRegs x => some (0xF#4 ++ x ++ 0x55#8)
  | .loadRegs x => some (0xF#4 ++ x ++ 0x65#8)

/-- The table's own example configuration for row 2: spec/opcode_table.json prints the match
0x00E1 for SET-ALL, "the spec's placeholder for examples, not a value of the hardware" (R45). It
is used only where the table's numbering is asked about (`decodeTableWord`,
`Config.forTableWord`), never by a step. DESIGN CHOICE, safe: log 10. -/
def tablePlaceholder : Word := 0x00E1#16

/-- The word of an instruction whose bits the opcode table numbers `w`: bit 0 is the least
significant bit of the one 16-bit word; bits at `nbits` and above are 0. -/
def tableWord (nbits w : Nat) : Word := BitVec.ofNat 16 (w % 2 ^ nbits)

/-- What the decoder reads from the word the opcode table numbers `w`, its two bytes laid out
big-endian (R27), in the table's configuration (row 2 exists, with its printed match). -/
def decodeTableWord (nbits w : Nat) : Option Instr :=
  let word := tableWord nbits w
  match decodeBytes (some tablePlaceholder) [highByte word, lowByte word] with
  | .ok (i, _) => some i
  | .error _ => none

/-- A configuration in which the opcode table's word is an instruction if the table says it is
one: row 2's placeholder becomes `SETALL_WORD`; every other word leaves the configuration alone. -/
def Config.forTableWord (c : Config) (word : Word) : Config :=
  if word = tablePlaceholder then { c with setAllWord := some word } else c

end Sys2Proof
end

