-- ==== Sys2Proof/Machine/Fetch.lean ====
section
/-! DEFINITION. Fetch and decode (40_cycle.md R51, R52), and placing a word where the next fetch
reads it. -/

namespace Sys2Proof.Machine

/-- R51's advance, made on every fetch, a halting one too; the model also notes that a Tick has
begun (log 7). -/
def State.advanced (s : State) : State := { s with ip := s.ip + 2, started := true }

/-- The word at ip, if both its bytes exist (R30, R51; big-endian, R27). -/
def State.fetchWord (s : State) : Option Word :=
  match s.byteAt? s.ip.toNat, s.byteAt? (s.ip.toNat + 1) with
  | some hi, some lo => some (wordOf hi lo)
  | _, _ => none

/-- Fetch then decode (R50 to R52): the instruction at ip, or why the step halts. -/
def State.fetchDecode (s : State) : Except HaltReason Instr :=
  match s.fetchWord with
  | none => .error .fetchOutOfRange
  | some w =>
    match decode s.cfg.setAllWord w with
    | .ok i => .ok i
    | .error _ => .error .unrecognized

/-- The state with a word stored where the next step fetches it: the stand-in for the host's Load
(log 10). An ip with no word in memory is moved to the load base, a set fault latch is cleared,
and the opcode table's SET-ALL word gets its configuration. -/
def State.placeWord (s : State) (w : Word) : State :=
  let ip : Addr := if s.ip.toNat + 1 < memSize then s.ip else BitVec.ofNat 16 loadBase
  { s with ip := ip, fault := none, cfg := s.cfg.forTableWord w }.writeBytes ip.toNat
    [highByte w, lowByte w]

end Sys2Proof.Machine
end

