-- ==== Sys2Proof/Machine/Step.lean ====
section
/-! DEFINITION. One step: a pass of Tick's loop (40_cycle.md R50, R54, R56). -/

namespace Sys2Proof.Machine

/-- R50 with the latch check of R56 before it. A halt (R99, R100) is a next state: only the ip
advance is made, and a later step goes on from there (log 1). A fault is a next state with the
latch set (log 2); on a core whose latch is set there is no step (R56). -/
def step (s : State) : Host.Outcome State Fault Refusal :=
  if s.cfg.legal then
    match s.fault with
    | some k => .fault (.latched k)
    | none =>
      match s.fetchDecode with
      | .error _ => .next s.advanced
      | .ok i => exec i s.advanced
  else .refused .illegalConfig

/-- `s` with the opcode table's word `w` where the next step fetches. -/
def State.withFetchWord (s : State) (nbits w : Nat) : State := s.placeWord (tableWord nbits w)

end Sys2Proof.Machine
end

