-- ==== Sys2Proof/Machine/Boundary.lean ====
section
/-! DEFINITION. The host's boundary operations other than Tick (60_exceptions.md R111 to R116,
20_memory.md R38, 70_reset_and_hazards.md R121). -/

namespace Sys2Proof.Machine

/-- `Reset()` (R121): every item to its reset value; the configuration and the count of free bytes
drawn are no state of the spec and stay (log 3, 4). -/
def State.hostReset (s : State) : State := { State.resetWith s.cfg with draws := s.draws }

/-- `Load(bytes)` (R38): admitted for at most 3584 bytes and before the first Tick since Reset. -/
def State.hostLoad (s : State) (bytes : List Byte) : Answer :=
  if s.started then .refused .loadAfterTick
  else if loadBase + bytes.length ≤ memSize then .next (s.writeBytes loadBase bytes)
  else .refused .loadTooLong

/-- A timer's decrement, saturating at 0 (R111). -/
def countDown (t : Byte) : Byte := if t = 0#8 then 0#8 else t - 1#8

/-- `TimerPulse()` (R111). -/
def State.timerPulse (s : State) : State := { s with dt := countDown s.dt, st := countDown s.st }

/-- `key[k] <- b` (R17). -/
def State.setKey (s : State) (k : Key) (b : Bool) : State :=
  { s with key := s.key.set k.toNat b k.isLt }

/-- `Press(k)` (R112). -/
def State.press (s : State) (k : Key) : State := { s.setKey k true with released := none }

/-- `Release(k)` (R113). -/
def State.release (s : State) (k : Key) : State := { s.setKey k false with released := some k }

/-- The display read port (R115). -/
def State.hostDispGet (s : State) (r : Fin 32) (c : Fin 64) : Bool := dispGet s.disp r c

/-- The display's width (R115). -/
def displayWidth : Nat := 64

/-- The display's height (R115). -/
def displayHeight : Nat := 32

/-- The operations that may fall between any two instructions and change state (R116). -/
inductive HostOp where
  | reset
  | timerPulse
  | press (k : Key)
  | release (k : Key)
  deriving DecidableEq, Repr

/-- One such operation. -/
def State.hostOp (s : State) : HostOp → State
  | .reset => s.hostReset
  | .timerPulse => s.timerPulse
  | .press k => s.press k
  | .release k => s.release k

/-- Several, in order. -/
def State.hostOps (s : State) (ops : List HostOp) : State := ops.foldl State.hostOp s

end Sys2Proof.Machine
end

