-- ==== Sys2Proof/Machine/Tick.lean ====
section
/-! DEFINITION. The boundary operation Tick (40_cycle.md R54 to R56), alone and with host
operations falling between its instructions (60_exceptions.md R116), and whole histories of host
events. -/

namespace Sys2Proof.Machine

/-- The outcome of one step (00_scope.md R7). -/
inductive StepResult where
  | executed
  | halt (r : HaltReason)
  | fault (k : FaultKind)
  deriving DecidableEq, Repr

/-- R7, R50: the outcome of the step from `s` that answered `t`. A step starts with the latch
clear (R54), so a latch that is set afterwards is this step's fault. -/
def stepResult (s t : State) : StepResult :=
  match s.fetchDecode with
  | .error r => .halt r
  | .ok _ =>
    match t.fault with
    | some k => .fault k
    | none => .executed

/-- What Tick returns (R54). -/
inductive TickResult where
  | budgetExhausted
  | stopped (r : HaltReason)
  | error (k : FaultKind)
  deriving DecidableEq, Repr

/-- A Tick's answer: its result and the state it leaves. -/
abbrev TickAnswer := Host.Outcome (TickResult × State) Fault Refusal

/-- R54's loop with `n` slots left; `env` lists, for each coming step, the host operations that
fall just before it (R116; log 8). -/
def tickLoop : Nat → List (List HostOp) → State → TickAnswer
  | 0, _, s => .next (.budgetExhausted, s)
  | n + 1, env, s =>
    let u := s.hostOps (env.headD [])
    match step u with
    | .next t =>
      match stepResult u t with
      | .executed => tickLoop n env.tail t
      | .halt r => .next (.stopped r, t)
      | .fault k => .next (.error k, t)
    | .fault r => .fault r
    | .refused r => .refused r

/-- `Tick()` with host operations between its instructions (R54, R56, R116). -/
def tickWith (env : List (List HostOp)) (s : State) : TickAnswer :=
  if s.cfg.legal then
    match s.fault with
    | some k => .next (.error k, s)
    | none => tickLoop s.cfg.tickBudget env s
  else .refused .illegalConfig

/-- `Tick()` (R54) with no host operation inside it. -/
def tick (s : State) : TickAnswer := tickWith [] s

/-- What the environment does to the core (R116). -/
inductive Event where
  /-- One Tick, with the host operations that fall between its instructions. -/
  | tick (env : List (List HostOp))
  /-- Reset, TimerPulse, Press or Release between Ticks. -/
  | op (o : HostOp)
  /-- Load. -/
  | load (bytes : List Byte)
  deriving DecidableEq, Repr

/-- One event. -/
def State.act (s : State) : Event → Answer
  | .tick env =>
    match tickWith env s with
    | .next (_, t) => .next t
    | .fault r => .fault r
    | .refused r => .refused r
  | .op o => .next (s.hostOp o)
  | .load bytes => s.hostLoad bytes

/-- A whole history of events, stopping at one the model gives no meaning. -/
def State.history (s : State) : List Event → Answer
  | [] => .next s
  | e :: es =>
    match s.act e with
    | .next t => t.history es
    | .fault r => .fault r
    | .refused r => .refused r

end Sys2Proof.Machine
end

