-- ==== Sys2Proof/Safety.lean ====
section
/-! DEFINITION. The terms the claims use: which states a run may be in, what leaves memory alone,
the sprite pixel a DRAW puts on a display point, and which instructions name VF. -/

namespace Sys2Proof.Machine

/-- A core that takes a step: a legal configuration and a clear fault latch (R54, R56). -/
abbrev State.Running (s : State) : Prop := s.cfg.legal = true ∧ s.fault = none

/-- The invariant of every run: a legal configuration, memory in its canonical form, and return
addresses of at most 0x1000 in every slot (R63: "so they are at most 0x1000"). -/
abbrev State.Inv (s : State) : Prop :=
  s.cfg.legal = true ∧ Memory.wf s.cfg.fontTable s.mem ∧
    ∀ k : Fin 16, (s.stack[k]).toNat ≤ 0x1000

/-- Every byte of memory reads as before. -/
def SameBytes (s t : State) : Prop := ∀ a, t.readByte a = s.readByte a

/-- Every byte outside the `n` bytes from `a` reads as before. -/
def SameBytesOutside (s t : State) (a n : Nat) : Prop :=
  ∀ c, (c < a ∨ a + n ≤ c) → t.readByte c = s.readByte c

/-- The sprite row of DRAW X,Y,N that covers display row `r`, if it is below N (R60). -/
def State.spriteRow (s : State) (y : Reg) (r : Fin 32) : Nat :=
  (r.val + 32 - (s.getV y).toNat % 32) % 32

/-- The sprite column that covers display column `c`, if it is below 8 (R60). -/
def State.spriteCol (s : State) (x : Reg) (c : Fin 64) : Nat :=
  (c.val + 64 - (s.getV x).toNat % 64) % 64

/-- The sprite bit DRAW X,Y,N puts on the point at row `r`, column `c`: false off the sprite
(R60: the sprite's row `j` from `mem[I + j]`, most significant bit leftmost, both axes wrapping). -/
def State.spriteBit (s : State) (x y : Reg) (n : Nibble) (r : Fin 32) (c : Fin 64) : Bool :=
  decide (s.spriteRow y r < n.toNat) && decide (s.spriteCol x c < 8) &&
    (s.readByte (s.i.toNat + s.spriteRow y r)).getLsbD (7 - s.spriteCol x c)

/-- The bytes of DRAW X,Y,N are all in memory (R31: no byte at all when N = 0). -/
abbrev drawInRange (s : State) (n : Nibble) : Prop := n.toNat = 0 ∨ s.i.toNat + n.toNat ≤ 4096

/-- The six instructions that write VF as a flag (R9). -/
def Instr.writesFlag : Instr → Bool
  | .addReg _ _ | .sub _ _ | .subn _ _ | .shr _ _ | .shl _ _ | .draw _ _ _ => true
  | _ => false

/-- Register `z` is an ordinary destination of the instruction: its operand X (R9: "it names
register 15 as its destination X", and so for every other register), or one of `V0..V[X]` for
LOAD-REGS (R91). -/
def Instr.hasDestination (z : Reg) : Instr → Bool
  | .load x _ | .add x _ | .rand x _ => x == z
  | .mov x _ | .or x _ | .and x _ | .xor x _ => x == z
  | .addReg x _ | .sub x _ | .subn x _ | .shr x _ | .shl x _ => x == z
  | .loadDelay x | .waitKey x => x == z
  | .loadRegs x => decide (z.toNat ≤ x.toNat)
  | _ => false

/-- The register an instruction writes as an ordinary destination is VF (R9). -/
def Instr.destinationIsVF (i : Instr) : Bool := Instr.hasDestination regVF i

/-- The six skip instructions (R11). -/
def Instr.isSkip : Instr → Bool
  | .skipEq _ _ | .skipNeq _ _ | .skipEqReg _ _ | .skipNeqReg _ _ => true
  | .skipKey _ | .skipNokey _ => true
  | _ => false

/-- The four instructions that assign ip (R11: "an absolute assignment (JUMP, CALL, RET,
JUMP-OFFSET)"). -/
def Instr.assignsIp : Instr → Bool
  | .jump _ | .call _ | .ret | .jumpOffset _ => true
  | _ => false

/-- The instructions that can raise a fault (R104). -/
def Instr.canFault : Instr → Bool
  | .call _ | .ret | .draw _ _ _ | .bcd _ | .storeRegs _ | .loadRegs _ => true
  | _ => false

/-- The byte at address `a` once `n` bytes `f 0`, `f 1`, ... are stored from I up. -/
def State.byteAfterStore (s : State) (n : Nat) (f : Nat → Byte) (a : Nat) : Byte :=
  if s.i.toNat ≤ a ∧ a < s.i.toNat + n then f (a - s.i.toNat) else s.readByte a

/-- The high nibble n1 of a word (R5). -/
def nibble1 (w : Word) : Nibble := w.extractLsb' 12 4

/-- The low nibble n4 of a word (R5). -/
def nibble4 (w : Word) : Nibble := w.extractLsb' 0 4

/-- The unrecognized words of a machine without SET-ALL, class by class (R46 (a) to (f)). -/
def unrecognizedWord (w : Word) : Prop :=
  (nibble1 w = 0 ∧ w ≠ 0x00E0 ∧ w ≠ 0x00EE) ∨
  (nibble1 w = 5 ∧ nibble4 w ≠ 0) ∨
  (nibble1 w = 8 ∧ nibble4 w ∈ [8#4, 9#4, 0xA#4, 0xB#4, 0xC#4, 0xD#4, 0xF#4]) ∨
  (nibble1 w = 9 ∧ nibble4 w ≠ 0) ∨
  (nibble1 w = 0xE ∧ fieldNN w ≠ 0x9E ∧ fieldNN w ≠ 0xA1) ∨
  (nibble1 w = 0xF ∧
    fieldNN w ∉ [0x07#8, 0x0A#8, 0x15#8, 0x18#8, 0x1E#8, 0x29#8, 0x33#8, 0x55#8, 0x65#8])

end Sys2Proof.Machine
end

