-- ==== Sys2Proof/Certificates/Slice0/Obligations.lean ====
section
/-! DEFINITION. The statements for the provers, from the numbered rules of spec/. Each docstring
names the rule or the spec's sentence it formalises. -/

open Sys2Proof Sys2Proof.Machine

/-! ## Encoding -/

/-- R42, R44, R45: on a machine with a legal configuration, decoding the word of any instruction
that exists there gives that instruction back, with every operand. The patterns of 30 rows are the
spec's decision D1. -/
def Obligations.DecodeEncodeRoundTrip : Prop :=
  ∀ (c : Config) (i : Instr), c.legal = true → i.wellFormed c.setAllWord = true →
    ∃ w, encode c.setAllWord i = some w ∧ decode c.setAllWord w = .ok i

/-- R43, R46, R47: a word that decodes is the encoding of what it decodes to, and that instruction
exists on the machine: no bit of a recognized word is dropped. -/
def Obligations.RecognizedWordIsItsEncoding : Prop :=
  ∀ (sa : Option Word) (w : Word) (i : Instr), decode sa w = .ok i →
    encode sa i = some w ∧ i.wellFormed sa = true

/-- R43 ("The rows of rule R44 are pairwise disjoint, so at most one row matches any word"), with
R45's condition on `SETALL_WORD`. -/
def Obligations.OpcodeRowsAreDisjoint : Prop :=
  ∀ c : Config, c.legal = true →
    (opRows c.setAllWord).Pairwise (fun r q => ∀ w, ¬(r.hit w = true ∧ q.hit w = true))

/-- 95_test_vectors.md section 2.1: words of every family and what they decode to. -/
def Obligations.SpecDecodeVectors : Prop :=
  decode none 0x00E0 = .ok .cls ∧ decode none 0x00EE = .ok .ret ∧
  decode (some 0x00E1) 0x00E1 = .ok .setAll ∧
  decode none 0x00E1 = .error (.unrecognized 0x00E1) ∧
  decode none 0x1ABC = .ok (.jump 0xABC) ∧ decode none 0x3A42 = .ok (.skipEq 0xA 0x42) ∧
  decode none 0x5AB0 = .ok (.skipEqReg 0xA 0xB) ∧
  decode none 0x5AB1 = .error (.unrecognized 0x5AB1) ∧
  decode none 0x6C7F = .ok (.load 0xC 0x7F) ∧ decode none 0x8AB7 = .ok (.subn 0xA 0xB) ∧
  decode none 0x8ABE = .ok (.shl 0xA 0xB) ∧ decode none 0xA123 = .ok (.loadI 0x123) ∧
  decode none 0xD01F = .ok (.draw 0 1 15) ∧ decode none 0xE1A1 = .ok (.skipNokey 1) ∧
  decode none 0xF10A = .ok (.waitKey 1) ∧ decode none 0xF155 = .ok (.storeRegs 1) ∧
  decode none 0xF175 = .error (.unrecognized 0xF175)

/-- R46: the unrecognized words are exactly classes (a) to (f), less `SETALL_WORD`. -/
def Obligations.UnrecognizedWordsAreExactlyListed : Prop :=
  ∀ (sa : Option Word) (w : Word),
    decode sa w = .error (.unrecognized w) ↔ (unrecognizedWord w ∧ sa ≠ some w)

/-! ## The step and the tick -/

/-- R50, R51, R27: where the two bytes at ip, big-endian, decode to an instruction, the step is
that instruction's execution with ip already advanced by 2. `started` is the model's own note that
a Tick has begun (log 7). -/
def Obligations.StepRunsDecodedInstruction : Prop :=
  ∀ (s : State) (i : Instr), s.Running → s.ip.toNat + 1 < 4096 →
    decode s.cfg.setAllWord (s.readByte s.ip.toNat ++ s.readByte (s.ip.toNat + 1)) = .ok i →
    step s = exec i { s with ip := s.ip + 2, started := true }

/-- R99 (decision D4): where ip is above 4094 the step halts: ip has advanced by 2, nothing else of
the spec's state changes, the latch stays clear, and Tick returns `Stopped(FetchOutOfRange)`. That
`step` answers a halt as a next state is the model's reading (log 1, DEDUCED), and `started` is the
model's own note that a Tick has begun (log 7, DESIGN CHOICE). -/
def Obligations.FetchPastMemoryHalts : Prop :=
  ∀ s : State, s.Running → 4094 < s.ip.toNat →
    step s = .next { s with ip := s.ip + 2, started := true } ∧
    tick s = .next (.stopped .fetchOutOfRange, { s with ip := s.ip + 2, started := true })

/-- R100 (decision D4): where the word at ip is unrecognized the step halts: ip has advanced past it,
nothing else of the spec's state changes, and Tick returns `Stopped(Unrecognized)`. That `step`
answers a halt as a next state is the model's reading (log 1, DEDUCED), and `started` is the
model's own note that a Tick has begun (log 7, DESIGN CHOICE). -/
def Obligations.UnrecognizedWordHalts : Prop :=
  ∀ (s : State) (w : Word), s.Running → s.ip.toNat + 1 < 4096 →
    w = s.readByte s.ip.toNat ++ s.readByte (s.ip.toNat + 1) →
    decode s.cfg.setAllWord w = .error (.unrecognized w) →
    step s = .next { s with ip := s.ip + 2, started := true } ∧
    tick s = .next (.stopped .unrecognized, { s with ip := s.ip + 2, started := true })

/-- R56 (decision D7): while the latch is set there is no step, and Tick returns the error and
changes nothing. R56 speaks of Tick: that `step` answers the fault `latched k` is the model's
reading (log 14, DEDUCED), and so is it that a Tick which runs no step takes none of the host
operations listed for its steps (log 8, DEDUCED). -/
def Obligations.FaultedCoreDoesNotRun : Prop :=
  ∀ (s : State) (k : FaultKind), s.cfg.legal = true → s.fault = some k →
    step s = .fault (.latched k) ∧ ∀ env, tickWith env s = .next (.error k, s)

/-- R55 ("absent host operations between ticks, the sequence of instructions executed is the same
for every value of TICK_BUDGET and every way of cutting it into ticks, up to the first halt or
fault"): a burst of `a + b` slots is a burst of `a` and then one of `b`. -/
def Obligations.TickCutsAnywhere : Prop :=
  ∀ (a b : Nat) (s t : State) (r : TickResult), tickLoop a [] s = .next (r, t) →
    tickLoop (a + b) [] s =
      match r with
      | .budgetExhausted => tickLoop b [] t
      | .stopped h => .next (.stopped h, t)
      | .error k => .next (.error k, t)

/-- R54, R55: a Tick that returns `BudgetExhausted` has run exactly `TICK_BUDGET` steps, each from
a state whose step executed an instruction. -/
def Obligations.ExhaustedTickRunsItsBudget : Prop :=
  ∀ s t : State, tick s = .next (.budgetExhausted, t) →
    core.run s.cfg.tickBudget s = .next t ∧
    ∀ n, n < s.cfg.tickBudget → ∃ u v i, core.run n s = .next u ∧ step u = .next v ∧
      u.fetchDecode = .ok i ∧ v.fault = none

/-- R53, R98: every instruction, on every state, answers a next state: no instruction is refused
and none stops the machine by itself. R53 lets an instruction complete or raise a fault: that a
raised fault is a next state too, with the latch set in it, is the model's reading (log 2,
DEDUCED). -/
def Obligations.EveryInstructionAnswers : Prop :=
  ∀ (i : Instr) (s : State), ∃ t, exec i s = .next t

/-- R7, R56 (decision D7): on a legal configuration a step is refused nowhere, and stops exactly
where the latch is set, with the latched kind. R7 and R56 speak of a step's outcomes and of Tick:
that a halt is a next state (log 1), that a raised fault is a next state (log 2) and that a step on
a core whose latch is set answers `latched k` (log 14) are the model's readings, all DEDUCED. -/
def Obligations.StepStopsOnlyWhenLatched : Prop :=
  ∀ s : State, s.cfg.legal = true →
    (∀ r, step s ≠ .refused r) ∧
    ∀ f, step s = .fault f ↔ ∃ k, f = .latched k ∧ s.fault = some k

/-- R105, R106 (decisions D6 to D8): faults are precise. An instruction that sets the latch changes
nothing else, and the kind is the one R101 to R103 name for it, under their conditions. That the
instruction sets the latch itself is the model's reading of R106, which has Tick set it (log 2,
DEDUCED). -/
def Obligations.FaultsArePrecise : Prop :=
  ∀ (i : Instr) (s t : State) (k : FaultKind), s.fault = none → exec i s = .next t →
    t.fault = some k →
    t = { s with fault := some k } ∧
    match k with
    | .stackOverflow => (∃ nnn, i = .call nnn) ∧ s.sp.val = 16
    | .stackUnderflow => i = .ret ∧ s.sp.val = 0
    | .memOutOfRange =>
      (∃ x y n, i = .draw x y n ∧ n.toNat ≠ 0 ∧ 4096 < s.i.toNat + n.toNat) ∨
      (∃ x, i = .bcd x ∧ 4096 < s.i.toNat + 3) ∨
      (∃ x : Reg, (i = .storeRegs x ∨ i = .loadRegs x) ∧ 4096 ≤ s.i.toNat + x.toNat)

/-- R101 to R103 at the level of the step: after a faulting step ip is the faulting instruction's
address plus 2 ("recoverable as ip - 2", R104), the latch holds the kind, and Tick returns the
error with that state. That the step sets the latch is the model's reading of R106, which has Tick
set it (log 2, DEDUCED), and `started` is the model's own note (log 7, DESIGN CHOICE). -/
def Obligations.FaultingStepLeavesItsAddress : Prop :=
  ∀ (s t : State) (k : FaultKind), s.Running → step s = .next t → t.fault = some k →
    t = { s with ip := s.ip + 2, started := true, fault := some k } ∧
    tick s = .next (.error k, t)

/-! ## Display -/

/-- R58: CLS (`00E0`) clears every display bit and changes nothing else. -/
def Obligations.ClsClearsDisplay : Prop :=
  (∀ sa, decode sa 0x00E0 = .ok .cls) ∧
  ∀ s : State, ∃ t, exec .cls s = .next t ∧ (∀ r c, dispGet t.disp r c = false) ∧
    t = { s with disp := t.disp } ∧ SameBytes s t

/-- R59: SET-ALL exists exactly where `SETALL_WORD` is set; it sets every display bit and changes
nothing else. -/
def Obligations.SetAllSetsDisplay : Prop :=
  (∀ c : Config, c.legal = true → ∀ w, decode c.setAllWord w = .ok .setAll ↔
    c.setAllWord = some w) ∧
  ∀ s : State, ∃ t, exec .setAll s = .next t ∧ (∀ r c, dispGet t.disp r c = true) ∧
    t = { s with disp := t.disp } ∧ SameBytes s t

/-- R60 (decisions D10, D11): DRAW XORs the sprite onto the display, both axes wrapping; VF becomes
1 exactly if some point that was set lies under a set sprite bit, else 0; nothing else changes. -/
def Obligations.DrawXorsSprite : Prop :=
  ∀ (x y : Reg) (n : Nibble) (s : State), drawInRange s n →
    ∃ t, exec (.draw x y n) s = .next t ∧
      (∀ r c, dispGet t.disp r c = (dispGet s.disp r c ^^ s.spriteBit x y n r c)) ∧
      (t.getV 15 = 1 ∨ t.getV 15 = 0) ∧
      (t.getV 15 = 1 ↔ ∃ r c, dispGet s.disp r c = true ∧ s.spriteBit x y n r c = true) ∧
      (∀ z : Reg, z ≠ 15 → t.getV z = s.getV z) ∧
      t = { s with disp := t.disp, v := t.v } ∧ SameBytes s t

/-- R60's properties: drawing the identical sprite at the identical position a second time restores
the display; on a cleared display the first draw gives VF = 0, and the second gives VF = 1 exactly
if the sprite has a set bit (a sprite that is all zero gives 0 both times). The coordinate
registers are not VF, which the first draw overwrites. -/
def Obligations.DrawTwiceErases : Prop :=
  ∀ (x y : Reg) (n : Nibble) (s : State), drawInRange s n → x ≠ 15 → y ≠ 15 →
    ∃ t u, exec (.draw x y n) s = .next t ∧ exec (.draw x y n) t = .next u ∧
      u.disp = s.disp ∧
      ((∀ r c, dispGet s.disp r c = false) →
        t.getV 15 = 0 ∧ (u.getV 15 = 1 ↔ ∃ r c, s.spriteBit x y n r c = true))

/-- R31, R103 (decision D6): a memory instruction whose bytes would pass the end of memory changes
nothing but the latch; the range is computed in unbounded integers. That `exec` sets the latch in
the next state it answers is the model's reading of R106, which has Tick set it (log 2,
DEDUCED). -/
def Obligations.OutOfRangeAccessFaults : Prop :=
  ∀ s : State,
    (∀ x y (n : Nibble), n.toNat ≠ 0 → 4096 ≤ s.i.toNat + n.toNat - 1 →
      exec (.draw x y n) s = .next { s with fault := some .memOutOfRange }) ∧
    (∀ x, 4096 ≤ s.i.toNat + 2 →
      exec (.bcd x) s = .next { s with fault := some .memOutOfRange }) ∧
    (∀ x : Reg, 4096 ≤ s.i.toNat + x.toNat →
      exec (.storeRegs x) s = .next { s with fault := some .memOutOfRange } ∧
      exec (.loadRegs x) s = .next { s with fault := some .memOutOfRange })

/-! ## Control transfer -/

/-- R64: JUMP NNN (`1NNN`) sets ip to NNN and changes nothing else. -/
def Obligations.JumpSetsIp : Prop :=
  ∀ nnn : Imm12, (∀ sa, decode sa (0x1#4 ++ nnn) = .ok (.jump nnn)) ∧
    ∀ s : State, ∃ t, exec (.jump nnn) s = .next t ∧ t.ip.toNat = nnn.toNat ∧
      t = { s with ip := t.ip } ∧ SameBytes s t

/-- R70 (decision D25: the 16-bit sum, no mask): JUMP-OFFSET NNN sets ip to NNN + V0. -/
def Obligations.JumpOffsetAddsV0 : Prop :=
  ∀ (nnn : Imm12) (s : State), ∃ t, exec (.jumpOffset nnn) s = .next t ∧
    t.ip.toNat = nnn.toNat + (s.getV 0).toNat ∧ t = { s with ip := t.ip } ∧ SameBytes s t

/-- R65, R62 (decision D21 for the slot's index): with fewer than 16 addresses held, CALL NNN
stores the advanced ip in slot sp, raises sp by one and sets ip to NNN. -/
def Obligations.CallPushesReturnAddress : Prop :=
  ∀ (nnn : Imm12) (s : State), s.sp.val ≠ 16 → ∃ t, exec (.call nnn) s = .next t ∧
    t.ip.toNat = nnn.toNat ∧ t.sp.val = s.sp.val + 1 ∧
    (∀ k : Fin 16, t.stack[k] = if k.val = s.sp.val then s.ip else s.stack[k]) ∧
    t = { s with ip := t.ip, sp := t.sp, stack := t.stack } ∧ SameBytes s t

/-- R63, R62 (decision D21): with an address held, RET sets ip to the top slot and lowers sp by
one; no slot changes. -/
def Obligations.RetPopsReturnAddress : Prop :=
  ∀ s : State, s.sp.val ≠ 0 → ∃ t, exec .ret s = .next t ∧ t.sp.val + 1 = s.sp.val ∧
    (∀ k : Fin 16, k.val + 1 = s.sp.val → t.ip = s.stack[k]) ∧
    t = { s with ip := t.ip, sp := t.sp } ∧ SameBytes s t

/-- R101, R102 (decision D8): CALL on a full stack and RET on an empty one set the latch and change
nothing else: ip is not redirected. That `exec` sets the latch in the next state it answers is the
model's reading of R106, which has Tick set it (log 2, DEDUCED). -/
def Obligations.StackBoundsFault : Prop :=
  ∀ s : State,
    (∀ nnn, s.sp.val = 16 →
      exec (.call nnn) s = .next { s with fault := some .stackOverflow }) ∧
    (s.sp.val = 0 → exec .ret s = .next { s with fault := some .stackUnderflow })

/-- R65 ("CALL addr then RET restores ip to the instruction immediately after the CALL"), on any
stack that is not full: only the slot CALL used may differ. -/
def Obligations.CallThenRetRestores : Prop :=
  ∀ (nnn : Imm12) (s : State), s.sp.val ≠ 16 →
    ∃ t u, exec (.call nnn) s = .next t ∧ exec .ret t = .next u ∧
      u = { s with stack := u.stack } ∧
      ∀ k : Fin 16, k.val ≠ s.sp.val → u.stack[k] = s.stack[k]

/-- R66, R67: SKIP-EQ X,NN (`3XNN`) and SKIP-NEQ X,NN (`4XNN`) advance ip by an extra 2 exactly
when V[X] equals, or differs from, NN; nothing else changes. -/
def Obligations.SkipOnImmediate : Prop :=
  ∀ (x : Reg) (nn : Byte),
    (∀ sa, decode sa (0x3#4 ++ x ++ nn) = .ok (.skipEq x nn) ∧
      decode sa (0x4#4 ++ x ++ nn) = .ok (.skipNeq x nn)) ∧
    ∀ s : State,
      exec (.skipEq x nn) s =
        .next { s with ip := if (s.getV x).toNat = nn.toNat then s.ip + 2 else s.ip } ∧
      exec (.skipNeq x nn) s =
        .next { s with ip := if (s.getV x).toNat = nn.toNat then s.ip else s.ip + 2 }

/-- R68, R69: SKIP-EQ-REG X,Y (`5XY0`) and SKIP-NEQ-REG X,Y (`9XY0`) advance ip by an extra 2
exactly when V[X] equals, or differs from, V[Y]; nothing else changes. -/
def Obligations.SkipOnRegisters : Prop :=
  ∀ x y : Reg,
    (∀ sa, decode sa (0x5#4 ++ x ++ y ++ 0x0#4) = .ok (.skipEqReg x y) ∧
      decode sa (0x9#4 ++ x ++ y ++ 0x0#4) = .ok (.skipNeqReg x y)) ∧
    ∀ s : State,
      exec (.skipEqReg x y) s =
        .next { s with ip := if (s.getV x).toNat = (s.getV y).toNat then s.ip + 2 else s.ip } ∧
      exec (.skipNeqReg x y) s =
        .next { s with ip := if (s.getV x).toNat = (s.getV y).toNat then s.ip else s.ip + 2 }

/-! ## Registers and the ALU -/

/-- R74, R75, R76: LOAD X,NN (`6XNN`), ADD X,NN (`7XNN`, modulo 256, no flag) and MOV X,Y (`8XY0`)
write V[X] and nothing else. -/
def Obligations.LoadAddMovWriteOneRegister : Prop :=
  ∀ (x y : Reg) (nn : Byte),
    (∀ sa, decode sa (0x6#4 ++ x ++ nn) = .ok (.load x nn) ∧
      decode sa (0x7#4 ++ x ++ nn) = .ok (.add x nn) ∧
      decode sa (0x8#4 ++ x ++ y ++ 0x0#4) = .ok (.mov x y)) ∧
    ∀ s : State, ∃ t u w,
      exec (.load x nn) s = .next t ∧ exec (.add x nn) s = .next u ∧
      exec (.mov x y) s = .next w ∧
      t.getV x = nn ∧ (u.getV x).toNat = ((s.getV x).toNat + nn.toNat) % 256 ∧
      w.getV x = s.getV y ∧
      (∀ z, z ≠ x → t.getV z = s.getV z ∧ u.getV z = s.getV z ∧ w.getV z = s.getV z) ∧
      t = { s with v := t.v } ∧ u = { s with v := u.v } ∧ w = { s with v := w.v } ∧
      SameBytes s t ∧ SameBytes s u ∧ SameBytes s w

/-- R77, R78, R79 (decision D24: VF is not written): OR, AND and XOR combine V[X] and V[Y] bit by
bit into V[X]; no flag, nothing else changes. -/
def Obligations.LogicWritesOneRegister : Prop :=
  ∀ (x y : Reg) (s : State), ∃ t u w,
    exec (.or x y) s = .next t ∧ exec (.and x y) s = .next u ∧ exec (.xor x y) s = .next w ∧
    (∀ b, (t.getV x).getLsbD b = ((s.getV x).getLsbD b || (s.getV y).getLsbD b)) ∧
    (∀ b, (u.getV x).getLsbD b = ((s.getV x).getLsbD b && (s.getV y).getLsbD b)) ∧
    (∀ b, (w.getV x).getLsbD b = ((s.getV x).getLsbD b ^^ (s.getV y).getLsbD b)) ∧
    (∀ z, z ≠ x → t.getV z = s.getV z ∧ u.getV z = s.getV z ∧ w.getV z = s.getV z) ∧
    t = { s with v := t.v } ∧ u = { s with v := u.v } ∧ w = { s with v := w.v } ∧
    SameBytes s t ∧ SameBytes s u ∧ SameBytes s w

/-- R80: ADD-REG X,Y (`8XY4`) leaves the wrapped sum in V[X] and the carry in VF; with X = 15 the
carry is what remains in VF. Nothing else changes. -/
def Obligations.AddRegSumAndCarry : Prop :=
  ∀ x y : Reg,
    (∀ sa, decode sa (0x8#4 ++ x ++ y ++ 0x4#4) = .ok (.addReg x y)) ∧
    ∀ s : State, ∃ t, exec (.addReg x y) s = .next t ∧
      (x ≠ 15 → (t.getV x).toNat = ((s.getV x).toNat + (s.getV y).toNat) % 256) ∧
      t.getV 15 = (if 255 < (s.getV x).toNat + (s.getV y).toNat then 1 else 0) ∧
      (∀ z : Reg, z ≠ x → z ≠ 15 → t.getV z = s.getV z) ∧
      t = { s with v := t.v } ∧ SameBytes s t

/-- R81, R83: SUB X,Y (`8XY5`) computes V[X] - V[Y] and SUBN X,Y (`8XY7`) computes V[Y] - V[X],
modulo 256, into V[X]; VF is 1 exactly when the subtraction performed does not borrow. -/
def Obligations.SubtractionsAndNotBorrow : Prop :=
  ∀ x y : Reg,
    (∀ sa, decode sa (0x8#4 ++ x ++ y ++ 0x5#4) = .ok (.sub x y) ∧
      decode sa (0x8#4 ++ x ++ y ++ 0x7#4) = .ok (.subn x y)) ∧
    ∀ s : State, ∃ t u, exec (.sub x y) s = .next t ∧ exec (.subn x y) s = .next u ∧
      (x ≠ 15 → (t.getV x).toNat = ((s.getV x).toNat + 256 - (s.getV y).toNat) % 256 ∧
        (u.getV x).toNat = ((s.getV y).toNat + 256 - (s.getV x).toNat) % 256) ∧
      t.getV 15 = (if (s.getV y).toNat ≤ (s.getV x).toNat then 1 else 0) ∧
      u.getV 15 = (if (s.getV x).toNat ≤ (s.getV y).toNat then 1 else 0) ∧
      (∀ z : Reg, z ≠ x → z ≠ 15 → t.getV z = s.getV z ∧ u.getV z = s.getV z) ∧
      t = { s with v := t.v } ∧ u = { s with v := u.v } ∧ SameBytes s t ∧ SameBytes s u

/-- R82, R84: SHR X,Y (`8XY6`) and SHL X,Y (`8XYE`) shift V[Y] by one into V[X]; VF is the bit
shifted out. -/
def Obligations.ShiftsAndBitShiftedOut : Prop :=
  ∀ x y : Reg,
    (∀ sa, decode sa (0x8#4 ++ x ++ y ++ 0x6#4) = .ok (.shr x y) ∧
      decode sa (0x8#4 ++ x ++ y ++ 0xE#4) = .ok (.shl x y)) ∧
    ∀ s : State, ∃ t u, exec (.shr x y) s = .next t ∧ exec (.shl x y) s = .next u ∧
      (x ≠ 15 → (t.getV x).toNat = (s.getV y).toNat / 2 ∧
        (u.getV x).toNat = 2 * (s.getV y).toNat % 256) ∧
      (t.getV 15).toNat = (s.getV y).toNat % 2 ∧
      (u.getV 15).toNat = (s.getV y).toNat / 128 ∧
      (∀ z : Reg, z ≠ x → z ≠ 15 → t.getV z = s.getV z ∧ u.getV z = s.getV z) ∧
      t = { s with v := t.v } ∧ u = { s with v := u.v } ∧ SameBytes s t ∧ SameBytes s u

/-- R73: the five ALU instructions with a flag, in one statement: the result stands in V[X], and
over it VF holds the flag computed from the values before, whatever X and Y are. -/
def Obligations.FlagIsWrittenLast : Prop :=
  ∀ (x y : Reg) (s : State),
    let a := s.getV x
    let b := s.getV y
    let after := fun (result flag : Byte) (t : State) =>
      t.getV 15 = flag ∧ (x ≠ 15 → t.getV x = result)
    (∃ t, exec (.addReg x y) s = .next t ∧
      after (a + b) (if 255 < a.toNat + b.toNat then 1 else 0) t) ∧
    (∃ t, exec (.sub x y) s = .next t ∧ after (a - b) (if b ≤ a then 1 else 0) t) ∧
    (∃ t, exec (.subn x y) s = .next t ∧ after (b - a) (if a ≤ b then 1 else 0) t) ∧
    (∃ t, exec (.shr x y) s = .next t ∧ after (b / 2) (b &&& 1) t) ∧
    (∃ t, exec (.shl x y) s = .next t ∧ after (b + b) (if 128 ≤ b then 1 else 0) t)

/-- R85: RAND X,NN (`CXNN`) writes a drawn byte masked with NN to V[X]. The drawn byte is a free
value (log 3): the statement holds whatever it is; `draws` is the model's own count of draws. -/
def Obligations.RandMasksDrawnByte : Prop :=
  ∀ (x : Reg) (nn : Byte),
    (∀ sa, decode sa (0xC#4 ++ x ++ nn) = .ok (.rand x nn)) ∧
    ∀ s : State, ∃ t, exec (.rand x nn) s = .next t ∧
      t.getV x = Config.draw8 s.draws &&& nn ∧ t.draws = s.draws + 1 ∧
      (∀ z, z ≠ x → t.getV z = s.getV z) ∧
      t = { s with v := t.v, draws := t.draws } ∧ SameBytes s t

/-! ## Address register and memory -/

/-- R86, R88: LOAD-I NNN (`ANNN`) sets I to NNN; FONT-ADDR X (`FX29`) sets I to 0x050 + 5 times the
low nibble of V[X]; nothing else changes. -/
def Obligations.LoadIAndFontAddrSetI : Prop :=
  ∀ (nnn : Imm12) (x : Reg),
    (∀ sa, decode sa (0xA#4 ++ nnn) = .ok (.loadI nnn) ∧
      decode sa (0xF#4 ++ x ++ 0x29#8) = .ok (.fontAddr x)) ∧
    ∀ s : State, ∃ t u, exec (.loadI nnn) s = .next t ∧ exec (.fontAddr x) s = .next u ∧
      t.i.toNat = nnn.toNat ∧ u.i.toNat = 0x050 + 5 * ((s.getV x).toNat % 16) ∧
      t = { s with i := t.i } ∧ u = { s with i := u.i } ∧ SameBytes s t ∧ SameBytes s u

/-- R87 (decision D9): ADD-I X adds V[X] to I modulo 2^16; VF is not written. -/
def Obligations.AddIWrapsAtSixteenBits : Prop :=
  ∀ (x : Reg) (s : State), ∃ t, exec (.addI x) s = .next t ∧
    t.i.toNat = (s.i.toNat + (s.getV x).toNat) % 65536 ∧ t = { s with i := t.i } ∧ SameBytes s t

/-- R89 (with R31, decision D6): where I, I+1 and I+2 are in memory, BCD X stores the hundreds, tens
and ones digit of V[X] there; every other byte and everything else is unchanged. -/
def Obligations.BcdStoresDigits : Prop :=
  ∀ (x : Reg) (s : State), s.i.toNat + 2 < 4096 → ∃ t, exec (.bcd x) s = .next t ∧
    (t.readByte s.i.toNat).toNat = (s.getV x).toNat / 100 ∧
    (t.readByte (s.i.toNat + 1)).toNat = (s.getV x).toNat / 10 % 10 ∧
    (t.readByte (s.i.toNat + 2)).toNat = (s.getV x).toNat % 10 ∧
    SameBytesOutside s t s.i.toNat 3 ∧ t = { s with mem := t.mem }

/-- R90 (with R31; decision D24: I is unchanged): where I to I+X are in memory, STORE-REGS X stores
V[k] at I+k for each k up to X; every other byte and everything else is unchanged. -/
def Obligations.StoreRegsWritesBlock : Prop :=
  ∀ (x : Reg) (s : State), s.i.toNat + x.toNat < 4096 → ∃ t, exec (.storeRegs x) s = .next t ∧
    (∀ k : Reg, k.toNat ≤ x.toNat → t.readByte (s.i.toNat + k.toNat) = s.getV k) ∧
    SameBytesOutside s t s.i.toNat (x.toNat + 1) ∧ t = { s with mem := t.mem }

/-- R91 (with R31; decision D24): where I to I+X are in memory, LOAD-REGS X loads V[k] from I+k for
each k up to X; every other register and everything else is unchanged. -/
def Obligations.LoadRegsReadsBlock : Prop :=
  ∀ (x : Reg) (s : State), s.i.toNat + x.toNat < 4096 → ∃ t, exec (.loadRegs x) s = .next t ∧
    (∀ k : Reg, k.toNat ≤ x.toNat → t.getV k = s.readByte (s.i.toNat + k.toNat)) ∧
    (∀ k : Reg, x.toNat < k.toNat → t.getV k = s.getV k) ∧
    t = { s with v := t.v } ∧ SameBytes s t

/-- R36 (with R31, R27): a store into the instruction stream is seen by the very next fetch. Where
the stored range is in memory, STORE-REGS X (any X) and BCD X answer a next state whose fetch, at
the same ip, reads the two bytes at ip as they stand after the store, both, one or neither of them
stored; and where that word decodes, its instruction is the one fetched. -/
def Obligations.StoredWordIsFetchedNext : Prop :=
  ∀ (x : Reg) (s : State), s.ip.toNat + 1 < 4096 →
    let fetchesAfter := fun (t : State) (byteAfter : Nat → Byte) =>
      t.ip = s.ip ∧
      t.fetchWord = some (byteAfter s.ip.toNat ++ byteAfter (s.ip.toNat + 1)) ∧
      ∀ i, decode s.cfg.setAllWord (byteAfter s.ip.toNat ++ byteAfter (s.ip.toNat + 1)) = .ok i →
        t.fetchDecode = .ok i
    (s.i.toNat + x.toNat < 4096 → ∃ t, exec (.storeRegs x) s = .next t ∧
      fetchesAfter t (s.byteAfterStore (x.toNat + 1) (fun k => s.getV (BitVec.ofNat 4 k)))) ∧
    (s.i.toNat + 2 < 4096 → ∃ t, exec (.bcd x) s = .next t ∧
      fetchesAfter t (s.byteAfterStore 3
        (fun k => BitVec.ofNat 8 ((s.getV x).toNat / 10 ^ (2 - k) % 10))))

/-! ## Keyboard and timers -/

/-- R92, R93: SKIP-KEY X (`EX9E`) and SKIP-NOKEY X (`EXA1`) advance ip by an extra 2 exactly when
the key numbered by the low nibble of V[X] is pressed, or is not; nothing else changes. -/
def Obligations.SkipOnKeyLevel : Prop :=
  ∀ x : Reg,
    (∀ sa, decode sa (0xE#4 ++ x ++ 0x9E#8) = .ok (.skipKey x) ∧
      decode sa (0xE#4 ++ x ++ 0xA1#8) = .ok (.skipNokey x)) ∧
    ∀ (s : State) (k : Fin 16), k.val = (s.getV x).toNat % 16 →
      exec (.skipKey x) s = .next { s with ip := if s.key[k] then s.ip + 2 else s.ip } ∧
      exec (.skipNokey x) s = .next { s with ip := if s.key[k] then s.ip else s.ip + 2 }

/-- R94, R96, R97: LOAD-DELAY X (`FX07`) reads DT into V[X]; SET-DELAY X (`FX15`) and SET-SOUND X
(`FX18`) write V[X] to DT and to ST; nothing else changes. -/
def Obligations.TimerInstructionsMoveOneByte : Prop :=
  ∀ x : Reg,
    (∀ sa, decode sa (0xF#4 ++ x ++ 0x07#8) = .ok (.loadDelay x) ∧
      decode sa (0xF#4 ++ x ++ 0x15#8) = .ok (.setDelay x) ∧
      decode sa (0xF#4 ++ x ++ 0x18#8) = .ok (.setSound x)) ∧
    ∀ s : State,
      (∃ t, exec (.loadDelay x) s = .next t ∧ t.getV x = s.dt ∧
        (∀ z, z ≠ x → t.getV z = s.getV z) ∧ t = { s with v := t.v } ∧ SameBytes s t) ∧
      exec (.setDelay x) s = .next { s with dt := s.getV x } ∧
      exec (.setSound x) s = .next { s with st := s.getV x }

/-- R95 (decision D27): with a key latched, WAIT-KEY X writes its number to V[X] and keeps the
latch; with the latch empty it takes ip back by 2, so that a step that runs it leaves ip, and all
else of the spec's state, where it was (`started` is the model's own note, log 7, DESIGN CHOICE). -/
def Obligations.WaitKeyCompletesOrRetries : Prop :=
  ∀ (x : Reg) (s : State),
    (∀ k, s.released = some k → ∃ t, exec (.waitKey x) s = .next t ∧
      (t.getV x).toNat = k.toNat ∧ (∀ z, z ≠ x → t.getV z = s.getV z) ∧
      t = { s with v := t.v } ∧ SameBytes s t) ∧
    (s.released = none →
      exec (.waitKey x) s = .next { s with ip := s.ip - 2 } ∧
      (s.Running → s.fetchDecode = .ok (.waitKey x) →
        step s = .next { s with started := true }))

/-! ## The host boundary -/

/-- R111 (decision D16): one TimerPulse lowers each timer by one, each saturating at 0 on its own;
nothing else changes. -/
def Obligations.TimerPulseSaturates : Prop :=
  ∀ s : State, (s.timerPulse.dt).toNat = s.dt.toNat - 1 ∧
    (s.timerPulse.st).toNat = s.st.toNat - 1 ∧
    s.timerPulse = { s with dt := s.timerPulse.dt, st := s.timerPulse.st }

/-- R112, R113 (decision D18): Press(k) sets the level of k and empties the latch; Release(k) clears
the level and latches k; no other level and nothing else changes. -/
def Obligations.PressAndRelease : Prop :=
  ∀ (s : State) (k : Key),
    (∀ j, (s.press k).keyDown j = if j = k then true else s.keyDown j) ∧
    (s.press k).released = none ∧
    s.press k = { s with key := (s.press k).key, released := none } ∧
    (∀ j, (s.release k).keyDown j = if j = k then false else s.keyDown j) ∧
    (s.release k).released = some k ∧
    s.release k = { s with key := (s.release k).key, released := some k }

/-- R38 (decision D19): before the first Tick, Load of at most 3584 bytes writes them from 0x200 up
and changes nothing else; a longer one, and any Load after the first Tick, has no meaning. The
first Tick is told by the model's own note `started` (log 7, DESIGN CHOICE). -/
def Obligations.LoadWritesImage : Prop :=
  ∀ (s : State) (bytes : List Byte),
    (s.started = false → bytes.length ≤ 3584 → ∃ t, s.hostLoad bytes = .next t ∧
      (∀ k, k < bytes.length → t.readByte (0x200 + k) = bytes.getD k 0) ∧
      SameBytesOutside s t 0x200 bytes.length ∧ t = { s with mem := t.mem }) ∧
    (s.started = false → 3584 < bytes.length → s.hostLoad bytes = .refused .loadTooLong) ∧
    (s.started = true → s.hostLoad bytes = .refused .loadAfterTick)

/-- R121, R22 (decisions D12, D20): Reset puts every piece of the spec's state at its reset value,
whatever the state was, and keeps the configuration. -/
def Obligations.HostResetRestoresEverything : Prop :=
  ∀ s : State,
    let t := s.hostReset
    (∀ x, t.getV x = 0) ∧ t.i = 0 ∧ t.ip = 0x0200 ∧ t.sp.val = 0 ∧
    (∀ k : Fin 16, t.stack[k] = 0) ∧ t.dt = 0 ∧ t.st = 0 ∧
    (∀ a, a < 0x050 → t.readByte a = 0) ∧
    (∀ k : Fin 80, t.readByte (0x050 + k.val) = s.cfg.fontTable[k]) ∧
    (∀ a, 0x0A0 ≤ a → a < 4096 → t.readByte a = 0) ∧
    (∀ r c, dispGet t.disp r c = false) ∧ (∀ k, t.keyDown k = false) ∧
    t.released = none ∧ t.fault = none ∧ t.cfg = s.cfg

/-- R122, R123: after reset with nothing loaded, the first fetch is at 0x200 and halts, and the next
tick halts one word further on (decision D4 for the advance of ip on a halt). The configuration is
the model's default: the font bytes are log 4 (PRESUMED), the budget of 1 is log 5 (DESIGN CHOICE).
`started` is the model's own note that a Tick has begun (log 7, DESIGN CHOICE). -/
def Obligations.ResetFetchesAtLoadBase : Prop :=
  State.reset.ip = 0x0200 ∧
  tick State.reset =
    .next (.stopped .unrecognized, { State.reset with ip := 0x0202, started := true }) ∧
  tick { State.reset with ip := 0x0202, started := true } =
    .next (.stopped .unrecognized, { State.reset with ip := 0x0204, started := true })

/-! ## Invariants -/

/-- The invariant `State.Inv` holds at reset, in the model's default configuration (log 4, PRESUMED,
and log 5, DESIGN CHOICE, whose budget of 1 is a legal one). -/
def Obligations.ResetMeetsInv : Prop := State.reset.Inv

/-- R24, R39, R45, R63: every step keeps the invariant: memory stays canonical, the configuration
legal, and every return address at most 0x1000. -/
def Obligations.StepKeepsInv : Prop :=
  ∀ s t : State, s.Inv → step s = .next t → t.Inv

/-- R116: every history of host events (Ticks with host operations between their instructions,
Reset, TimerPulse, Press, Release, Load) keeps the invariant. Where host operations fall inside a
Tick is the model's reading of R116 (log 8, DEDUCED), and that a Tick goes on with its count after
a Reset inside it is the model's choice (log 8, DESIGN CHOICE). -/
def Obligations.HistoryKeepsInv : Prop :=
  ∀ (es : List Event) (s t : State), s.Inv → s.history es = .next t → t.Inv

/-- R11 ("without halting fetches ip never exceeds 0x10FE"): a step that runs an instruction leaves
ip at most 0x10FE. -/
def Obligations.ExecutedIpIsBounded : Prop :=
  ∀ (s t : State) (i : Instr), s.Inv → s.fetchDecode = .ok i → step s = .next t →
    t.ip.toNat ≤ 0x10FE

/-! ## Whole-machine rules -/

/-- R32, R39: the instructions that can alter any memory byte are exactly BCD and STORE-REGS. -/
def Obligations.OnlyStoresAlterMemory : Prop :=
  (∀ (i : Instr) (s t : State), exec i s = .next t → (∀ x, i ≠ .bcd x) →
    (∀ x, i ≠ .storeRegs x) → t.mem = s.mem ∧ SameBytes s t) ∧
  (∃ s t a, exec (.bcd 0) s = .next t ∧ t.readByte a ≠ s.readByte a) ∧
  (∃ s t a, exec (.storeRegs 0) s = .next t ∧ t.readByte a ≠ s.readByte a)

/-- R8, R10 to R14, R16 to R19, R21, R104: which instructions may change each piece of state other
than memory (`OnlyStoresAlterMemory`) and VF (`VfHasItsWriters`). V0 to VE change only in an
instruction that names the register as a destination; I only in LOAD-I, ADD-I and FONT-ADDR; ip,
beyond the advance of fetch, only in JUMP, CALL, RET and JUMP-OFFSET, by 2 more in a skip, and by 2
back in WAIT-KEY; the stack only in CALL and RET; DT only in SET-DELAY; ST only in SET-SOUND; the
display only in CLS, SET-ALL and DRAW; the fault latch only in CALL, RET, DRAW, BCD, STORE-REGS and
LOAD-REGS, and no instruction clears it (that the instruction itself sets it is the model's
reading, log 2, DEDUCED); the keyboard state and the configuration in no instruction. Of the
model's own fields, `started` changes in none (log 7) and `draws` only in RAND (log 3). -/
def Obligations.EachPieceHasItsWriters : Prop :=
  ∀ (i : Instr) (s t : State), exec i s = .next t →
    (∀ z : Reg, z ≠ 15 → Instr.hasDestination z i = false → t.getV z = s.getV z) ∧
    ((∀ nnn, i ≠ .loadI nnn) → (∀ x, i ≠ .addI x) → (∀ x, i ≠ .fontAddr x) → t.i = s.i) ∧
    (Instr.assignsIp i = false → Instr.isSkip i = false → (∀ x, i ≠ .waitKey x) → t.ip = s.ip) ∧
    (Instr.isSkip i = true → t.ip = s.ip ∨ t.ip = s.ip + 2) ∧
    ((∃ x, i = .waitKey x) → t.ip = s.ip ∨ t.ip = s.ip - 2) ∧
    ((∀ nnn, i ≠ .call nnn) → t.stack = s.stack) ∧
    ((∀ nnn, i ≠ .call nnn) → i ≠ .ret → t.sp = s.sp) ∧
    ((∀ x, i ≠ .setDelay x) → t.dt = s.dt) ∧
    ((∀ x, i ≠ .setSound x) → t.st = s.st) ∧
    (i ≠ .cls → i ≠ .setAll → (∀ x y n, i ≠ .draw x y n) → t.disp = s.disp) ∧
    (Instr.canFault i = false → t.fault = s.fault) ∧
    (s.fault ≠ none → t.fault ≠ none) ∧
    t.key = s.key ∧ t.released = s.released ∧ t.cfg = s.cfg ∧ t.started = s.started ∧
    ((∀ x nn, i ≠ .rand x nn) → t.draws = s.draws)

/-- R9: VF changes only by the six flag writers and by instructions that name register 15 as their
destination; a flag writer that raises no fault leaves 0x00 or 0x01. -/
def Obligations.VfHasItsWriters : Prop :=
  ∀ (i : Instr) (s t : State), exec i s = .next t →
    (Instr.writesFlag i = false → Instr.destinationIsVF i = false → t.getV 15 = s.getV 15) ∧
    (Instr.writesFlag i = true → s.fault = none → t.fault = none → t.getV 15 = 0 ∨ t.getV 15 = 1)

/-- R14 ("no instruction reads it"): the sound timer's value changes nothing of what any instruction
does to the rest of the machine. -/
def Obligations.SoundTimerIsUnobservable : Prop :=
  ∀ (i : Instr) (s t : State) (b : Byte), (∀ x, i ≠ .setSound x) → exec i s = .next t →
    exec i { s with st := b } = .next { t with st := b }

/-- R12 ("Slots at index sp and above hold stale values that no instruction can read"): two cores
that differ only in such slots run every instruction alike, and still differ only in such slots. -/
def Obligations.StaleSlotsAreUnobservable : Prop :=
  ∀ (i : Instr) (s t : State) (stack' : Vector Addr 16),
    (∀ k : Fin 16, k.val < s.sp.val → stack'[k] = s.stack[k]) → exec i s = .next t →
    ∃ u, exec i { s with stack := stack' } = .next u ∧ u = { t with stack := u.stack } ∧
      ∀ k : Fin 16, k.val < t.sp.val → u.stack[k] = t.stack[k]
end

