-- ==== Sys2Proof/Laws/Decode.lean ====
section
/-! SUPPORT. The opcode map read by nibbles: the mask tests of R44 as tests of n1, n4 and the low
byte, the fields of a word given by its nibbles, and the decoder as one chain of such tests. -/

namespace Sys2Proof

open Sys2Proof.Machine

theorem mask_F000 (w : Word) (k : Nibble) :
    (w &&& 0xF000#16 = k.setWidth 16 <<< 12) ↔ nibble1 w = k := by
  constructor
  · intro h
    apply BitVec.eq_of_getLsbD_eq
    intro j hj
    have := congrArg (fun v => BitVec.getLsbD v (12 + j)) h
    interval_cases j <;> simpa [nibble1] using this
  · rintro rfl
    apply BitVec.eq_of_getLsbD_eq
    intro j hj
    interval_cases j <;> simp [nibble1]

theorem mask_F00F (w : Word) (k l : Nibble) :
    (w &&& 0xF00F#16 = k.setWidth 16 <<< 12 ||| l.setWidth 16) ↔
      nibble1 w = k ∧ nibble4 w = l := by
  constructor
  · intro h
    constructor <;> apply BitVec.eq_of_getLsbD_eq <;> intro j hj
    · have := congrArg (fun v => BitVec.getLsbD v (12 + j)) h
      interval_cases j <;> simpa [nibble1] using this
    · have := congrArg (fun v => BitVec.getLsbD v j) h
      interval_cases j <;> simpa [nibble4] using this
  · rintro ⟨rfl, rfl⟩
    apply BitVec.eq_of_getLsbD_eq
    intro j hj
    interval_cases j <;> simp [nibble1, nibble4]

theorem mask_F0FF (w : Word) (k : Nibble) (l : Byte) :
    (w &&& 0xF0FF#16 = k.setWidth 16 <<< 12 ||| l.setWidth 16) ↔
      nibble1 w = k ∧ fieldNN w = l := by
  constructor
  · intro h
    constructor <;> apply BitVec.eq_of_getLsbD_eq <;> intro j hj
    · have := congrArg (fun v => BitVec.getLsbD v (12 + j)) h
      interval_cases j <;> simpa [nibble1] using this
    · have := congrArg (fun v => BitVec.getLsbD v j) h
      interval_cases j <;> simpa [fieldNN] using this
  · rintro ⟨rfl, rfl⟩
    apply BitVec.eq_of_getLsbD_eq
    intro j hj
    interval_cases j <;> simp [nibble1, fieldNN]

theorem hit_FFFF (c : Word) (b : Word → Instr) (w : Word) :
    (OpRow.mk 0xFFFF c b).hit w = decide (w = c) := by
  have : w &&& 0xFFFF#16 = w := by
    have h := BitVec.and_allOnes (x := w)
    simpa using h
  refine (Bool.beq_eq_decide_eq _ _).trans (decide_eq_decide.2 ?_)
  exact (congrArg (fun v => v = c) this).to_iff

theorem hit_F000 (c : Word) (k : Nibble) (hc : c = k.setWidth 16 <<< 12) (b : Word → Instr)
    (w : Word) : (OpRow.mk 0xF000 c b).hit w = decide (nibble1 w = k) := by
  subst hc
  exact (Bool.beq_eq_decide_eq _ _).trans (decide_eq_decide.2 (mask_F000 w k))

theorem hit_F00F (c : Word) (k l : Nibble) (hc : c = k.setWidth 16 <<< 12 ||| l.setWidth 16)
    (b : Word → Instr) (w : Word) :
    (OpRow.mk 0xF00F c b).hit w = decide (nibble1 w = k ∧ nibble4 w = l) := by
  subst hc
  exact (Bool.beq_eq_decide_eq _ _).trans (decide_eq_decide.2 (mask_F00F w k l))

theorem hit_F0FF (c : Word) (k : Nibble) (l : Byte)
    (hc : c = k.setWidth 16 <<< 12 ||| l.setWidth 16) (b : Word → Instr) (w : Word) :
    (OpRow.mk 0xF0FF c b).hit w = decide (nibble1 w = k ∧ fieldNN w = l) := by
  subst hc
  exact (Bool.beq_eq_decide_eq _ _).trans (decide_eq_decide.2 (mask_F0FF w k l))

/-- One row's test in a search of the map. -/
theorem find_row (r : OpRow) (rs : List OpRow) (w : Word) (p : Prop) [Decidable p]
    (h : r.hit w = decide p) :
    (r :: rs).find? (fun q => q.hit w) =
      if p then some r else rs.find? (fun q => q.hit w) := by
  rw [List.find?_cons, h]
  by_cases hp : p <;> simp [hp]

/-- What the decoder makes of a search's result. -/
def decodedRow (w : Word) : Option OpRow → Except Reject Instr
  | some r => .ok (r.build w)
  | none => .error (.unrecognized w)

theorem decodedRow_ite (w : Word) (p : Prop) [Decidable p] (r : OpRow) (o : Option OpRow) :
    decodedRow w (if p then some r else o) = if p then .ok (r.build w) else decodedRow w o := by
  split <;> rfl

theorem decode_eq (sa : Option Word) (w : Word) :
    decode sa w = decodedRow w ((opRows sa).find? (fun r => r.hit w)) := by
  unfold decode
  cases (opRows sa).find? (fun r => r.hit w) <;> rfl

/-- SET-ALL's row, tried after the 34 others. -/
theorem decode_setAllRows (sa : Option Word) (w : Word) :
    decodedRow w ((setAllRows sa).find? (fun r => r.hit w)) =
      if sa = some w then .ok .setAll else .error (.unrecognized w) := by
  cases sa with
  | none => rfl
  | some v =>
    rw [setAllRows, find_row _ _ _ _ (hit_FFFF v _ w), decodedRow_ite]
    simp only [Option.some.injEq, eq_comm (a := v), List.find?_nil, decodedRow]

/-- The decoder as one chain of nibble tests, in the order of R44's rows, SET-ALL's last. -/
theorem decode_chain (sa : Option Word) (w : Word) :
    decode sa w =
    if w = 0x00E0#16 then .ok .cls else
    if w = 0x00EE#16 then .ok .ret else
    if nibble1 w = 0x1#4 then .ok (.jump (fieldNNN w)) else
    if nibble1 w = 0x2#4 then .ok (.call (fieldNNN w)) else
    if nibble1 w = 0x3#4 then .ok (.skipEq (fieldX w) (fieldNN w)) else
    if nibble1 w = 0x4#4 then .ok (.skipNeq (fieldX w) (fieldNN w)) else
    if nibble1 w = 0x5#4 ∧ nibble4 w = 0x0#4 then .ok (.skipEqReg (fieldX w) (fieldY w)) else
    if nibble1 w = 0x6#4 then .ok (.load (fieldX w) (fieldNN w)) else
    if nibble1 w = 0x7#4 then .ok (.add (fieldX w) (fieldNN w)) else
    if nibble1 w = 0x8#4 ∧ nibble4 w = 0x0#4 then .ok (.mov (fieldX w) (fieldY w)) else
    if nibble1 w = 0x8#4 ∧ nibble4 w = 0x1#4 then .ok (.or (fieldX w) (fieldY w)) else
    if nibble1 w = 0x8#4 ∧ nibble4 w = 0x2#4 then .ok (.and (fieldX w) (fieldY w)) else
    if nibble1 w = 0x8#4 ∧ nibble4 w = 0x3#4 then .ok (.xor (fieldX w) (fieldY w)) else
    if nibble1 w = 0x8#4 ∧ nibble4 w = 0x4#4 then .ok (.addReg (fieldX w) (fieldY w)) else
    if nibble1 w = 0x8#4 ∧ nibble4 w = 0x5#4 then .ok (.sub (fieldX w) (fieldY w)) else
    if nibble1 w = 0x8#4 ∧ nibble4 w = 0x6#4 then .ok (.shr (fieldX w) (fieldY w)) else
    if nibble1 w = 0x8#4 ∧ nibble4 w = 0x7#4 then .ok (.subn (fieldX w) (fieldY w)) else
    if nibble1 w = 0x8#4 ∧ nibble4 w = 0xE#4 then .ok (.shl (fieldX w) (fieldY w)) else
    if nibble1 w = 0x9#4 ∧ nibble4 w = 0x0#4 then .ok (.skipNeqReg (fieldX w) (fieldY w)) else
    if nibble1 w = 0xA#4 then .ok (.loadI (fieldNNN w)) else
    if nibble1 w = 0xB#4 then .ok (.jumpOffset (fieldNNN w)) else
    if nibble1 w = 0xC#4 then .ok (.rand (fieldX w) (fieldNN w)) else
    if nibble1 w = 0xD#4 then .ok (.draw (fieldX w) (fieldY w) (fieldN w)) else
    if nibble1 w = 0xE#4 ∧ fieldNN w = 0x9E#8 then .ok (.skipKey (fieldX w)) else
    if nibble1 w = 0xE#4 ∧ fieldNN w = 0xA1#8 then .ok (.skipNokey (fieldX w)) else
    if nibble1 w = 0xF#4 ∧ fieldNN w = 0x07#8 then .ok (.loadDelay (fieldX w)) else
    if nibble1 w = 0xF#4 ∧ fieldNN w = 0x0A#8 then .ok (.waitKey (fieldX w)) else
    if nibble1 w = 0xF#4 ∧ fieldNN w = 0x15#8 then .ok (.setDelay (fieldX w)) else
    if nibble1 w = 0xF#4 ∧ fieldNN w = 0x18#8 then .ok (.setSound (fieldX w)) else
    if nibble1 w = 0xF#4 ∧ fieldNN w = 0x1E#8 then .ok (.addI (fieldX w)) else
    if nibble1 w = 0xF#4 ∧ fieldNN w = 0x29#8 then .ok (.fontAddr (fieldX w)) else
    if nibble1 w = 0xF#4 ∧ fieldNN w = 0x33#8 then .ok (.bcd (fieldX w)) else
    if nibble1 w = 0xF#4 ∧ fieldNN w = 0x55#8 then .ok (.storeRegs (fieldX w)) else
    if nibble1 w = 0xF#4 ∧ fieldNN w = 0x65#8 then .ok (.loadRegs (fieldX w)) else
    if sa = some w then .ok .setAll else .error (.unrecognized w) := by
  rw [decode_eq]
  simp only [opRows, baseRows, rowsFixed, rowsImmediate, rowsAlu, rowsUpper, rowsLowByte,
    List.cons_append, List.nil_append]
  rw [find_row _ _ _ _ (hit_FFFF 0x00E0 _ w), decodedRow_ite]
  rw [find_row _ _ _ _ (hit_FFFF 0x00EE _ w), decodedRow_ite]
  rw [find_row _ _ _ _ (hit_F000 0x1000 0x1 rfl _ w), decodedRow_ite]
  rw [find_row _ _ _ _ (hit_F000 0x2000 0x2 rfl _ w), decodedRow_ite]
  rw [find_row _ _ _ _ (hit_F000 0x3000 0x3 rfl _ w), decodedRow_ite]
  rw [find_row _ _ _ _ (hit_F000 0x4000 0x4 rfl _ w), decodedRow_ite]
  rw [find_row _ _ _ _ (hit_F00F 0x5000 0x5 0x0 rfl _ w), decodedRow_ite]
  rw [find_row _ _ _ _ (hit_F000 0x6000 0x6 rfl _ w), decodedRow_ite]
  rw [find_row _ _ _ _ (hit_F000 0x7000 0x7 rfl _ w), decodedRow_ite]
  rw [find_row _ _ _ _ (hit_F00F 0x8000 0x8 0x0 rfl _ w), decodedRow_ite]
  rw [find_row _ _ _ _ (hit_F00F 0x8001 0x8 0x1 rfl _ w), decodedRow_ite]
  rw [find_row _ _ _ _ (hit_F00F 0x8002 0x8 0x2 rfl _ w), decodedRow_ite]
  rw [find_row _ _ _ _ (hit_F00F 0x8003 0x8 0x3 rfl _ w), decodedRow_ite]
  rw [find_row _ _ _ _ (hit_F00F 0x8004 0x8 0x4 rfl _ w), decodedRow_ite]
  rw [find_row _ _ _ _ (hit_F00F 0x8005 0x8 0x5 rfl _ w), decodedRow_ite]
  rw [find_row _ _ _ _ (hit_F00F 0x8006 0x8 0x6 rfl _ w), decodedRow_ite]
  rw [find_row _ _ _ _ (hit_F00F 0x8007 0x8 0x7 rfl _ w), decodedRow_ite]
  rw [find_row _ _ _ _ (hit_F00F 0x800E 0x8 0xE rfl _ w), decodedRow_ite]
  rw [find_row _ _ _ _ (hit_F00F 0x9000 0x9 0x0 rfl _ w), decodedRow_ite]
  rw [find_row _ _ _ _ (hit_F000 0xA000 0xA rfl _ w), decodedRow_ite]
  rw [find_row _ _ _ _ (hit_F000 0xB000 0xB rfl _ w), decodedRow_ite]
  rw [find_row _ _ _ _ (hit_F000 0xC000 0xC rfl _ w), decodedRow_ite]
  rw [find_row _ _ _ _ (hit_F000 0xD000 0xD rfl _ w), decodedRow_ite]
  rw [find_row _ _ _ _ (hit_F0FF 0xE09E 0xE 0x9E rfl _ w), decodedRow_ite]
  rw [find_row _ _ _ _ (hit_F0FF 0xE0A1 0xE 0xA1 rfl _ w), decodedRow_ite]
  rw [find_row _ _ _ _ (hit_F0FF 0xF007 0xF 0x07 rfl _ w), decodedRow_ite]
  rw [find_row _ _ _ _ (hit_F0FF 0xF00A 0xF 0x0A rfl _ w), decodedRow_ite]
  rw [find_row _ _ _ _ (hit_F0FF 0xF015 0xF 0x15 rfl _ w), decodedRow_ite]
  rw [find_row _ _ _ _ (hit_F0FF 0xF018 0xF 0x18 rfl _ w), decodedRow_ite]
  rw [find_row _ _ _ _ (hit_F0FF 0xF01E 0xF 0x1E rfl _ w), decodedRow_ite]
  rw [find_row _ _ _ _ (hit_F0FF 0xF029 0xF 0x29 rfl _ w), decodedRow_ite]
  rw [find_row _ _ _ _ (hit_F0FF 0xF033 0xF 0x33 rfl _ w), decodedRow_ite]
  rw [find_row _ _ _ _ (hit_F0FF 0xF055 0xF 0x55 rfl _ w), decodedRow_ite]
  rw [find_row _ _ _ _ (hit_F0FF 0xF065 0xF 0x65 rfl _ w), decodedRow_ite]
  rw [decode_setAllRows]
  rfl

/-- A word's nibbles put back together (R41). -/
theorem word_xy (k x y n : Nibble) : (k ++ x ++ y ++ n : Word) =
    k.setWidth 16 <<< 12 ||| x.setWidth 16 <<< 8 ||| y.setWidth 16 <<< 4 ||| n.setWidth 16 := by
  apply BitVec.eq_of_getLsbD_eq
  intro j hj
  refine (BitVec.getLsbD_append (x := k ++ x ++ y) (y := n) (i := j)).trans ?_
  rw [BitVec.getLsbD_append, BitVec.getLsbD_append]
  interval_cases j <;> simp

theorem word_xnn (k x : Nibble) (n : Byte) : (k ++ x ++ n : Word) =
    k.setWidth 16 <<< 12 ||| x.setWidth 16 <<< 8 ||| n.setWidth 16 := by
  apply BitVec.eq_of_getLsbD_eq
  intro j hj
  refine (BitVec.getLsbD_append (x := k ++ x) (y := n) (i := j)).trans ?_
  rw [BitVec.getLsbD_append]
  interval_cases j <;> simp

theorem word_nnn (k : Nibble) (n : Imm12) :
    (k ++ n : Word) = k.setWidth 16 <<< 12 ||| n.setWidth 16 := by
  apply BitVec.eq_of_getLsbD_eq
  intro j hj
  refine (BitVec.getLsbD_append (x := k) (y := n) (i := j)).trans ?_
  interval_cases j <;> simp

@[simp] theorem nibble1_xy (k x y n : Nibble) : nibble1 (k ++ x ++ y ++ n) = k := by
  rw [word_xy]
  apply BitVec.eq_of_getLsbD_eq
  intro j hj
  interval_cases j <;> simp [nibble1]

@[simp] theorem fieldX_xy (k x y n : Nibble) : fieldX (k ++ x ++ y ++ n) = x := by
  rw [word_xy]
  apply BitVec.eq_of_getLsbD_eq
  intro j hj
  interval_cases j <;> simp [fieldX]

@[simp] theorem fieldY_xy (k x y n : Nibble) : fieldY (k ++ x ++ y ++ n) = y := by
  rw [word_xy]
  apply BitVec.eq_of_getLsbD_eq
  intro j hj
  interval_cases j <;> simp [fieldY]

@[simp] theorem fieldN_xy (k x y n : Nibble) : fieldN (k ++ x ++ y ++ n) = n := by
  rw [word_xy]
  apply BitVec.eq_of_getLsbD_eq
  intro j hj
  interval_cases j <;> simp [fieldN]

@[simp] theorem nibble4_xy (k x y n : Nibble) : nibble4 (k ++ x ++ y ++ n) = n := by
  rw [word_xy]
  apply BitVec.eq_of_getLsbD_eq
  intro j hj
  interval_cases j <;> simp [nibble4]

@[simp] theorem nibble1_xnn (k x : Nibble) (n : Byte) : nibble1 (k ++ x ++ n) = k := by
  rw [word_xnn]
  apply BitVec.eq_of_getLsbD_eq
  intro j hj
  interval_cases j <;> simp [nibble1]

@[simp] theorem fieldX_xnn (k x : Nibble) (n : Byte) : fieldX (k ++ x ++ n) = x := by
  rw [word_xnn]
  apply BitVec.eq_of_getLsbD_eq
  intro j hj
  interval_cases j <;> simp [fieldX]

@[simp] theorem fieldNN_xnn (k x : Nibble) (n : Byte) : fieldNN (k ++ x ++ n) = n := by
  rw [word_xnn]
  apply BitVec.eq_of_getLsbD_eq
  intro j hj
  interval_cases j <;> simp [fieldNN]

@[simp] theorem nibble1_nnn (k : Nibble) (n : Imm12) : nibble1 (k ++ n) = k := by
  rw [word_nnn]
  apply BitVec.eq_of_getLsbD_eq
  intro j hj
  interval_cases j <;> simp [nibble1]

@[simp] theorem fieldNNN_nnn (k : Nibble) (n : Imm12) : fieldNNN (k ++ n) = n := by
  rw [word_nnn]
  apply BitVec.eq_of_getLsbD_eq
  intro j hj
  interval_cases j <;> simp [fieldNNN]

/-- A word whose high nibble is not 0 is neither CLS's nor RET's. -/
theorem ne_fixed {w : Word} (h : nibble1 w ≠ 0) : w ≠ 0x00E0#16 ∧ w ≠ 0x00EE#16 :=
  ⟨fun e => h (by rw [e]; rfl), fun e => h (by rw [e]; rfl)⟩

/-- A word is its four nibbles (R40). -/
theorem word_of_fields_xy (w : Word) :
    (nibble1 w ++ fieldX w ++ fieldY w ++ nibble4 w : Word) = w := by
  rw [word_xy]
  apply BitVec.eq_of_getLsbD_eq
  intro j hj
  interval_cases j <;> simp [nibble1, fieldX, fieldY, nibble4]

theorem word_of_fields_xnn (w : Word) : (nibble1 w ++ fieldX w ++ fieldNN w : Word) = w := by
  rw [word_xnn]
  apply BitVec.eq_of_getLsbD_eq
  intro j hj
  interval_cases j <;> simp [nibble1, fieldX, fieldNN]

theorem word_of_fields_nnn (w : Word) : (nibble1 w ++ fieldNNN w : Word) = w := by
  rw [word_nnn]
  apply BitVec.eq_of_getLsbD_eq
  intro j hj
  interval_cases j <;> simp [nibble1, fieldNNN]

end Sys2Proof
end

