-- ==== Sys2Proof/Laws/State.lean ====
section
/-! SUPPORT. One lemma per field per update of State, true by rfl, and what the reads of registers
and memory make of each update. -/

namespace Sys2Proof.Machine

variable (s : State)

@[simp] theorem State.setV_v (x : Reg) (b : Byte) : (s.setV x b).v = s.v.set x.toNat b x.isLt := rfl
@[simp] theorem State.setV_i (x : Reg) (b : Byte) : (s.setV x b).i = s.i := rfl
@[simp] theorem State.setV_ip (x : Reg) (b : Byte) : (s.setV x b).ip = s.ip := rfl
@[simp] theorem State.setV_sp (x : Reg) (b : Byte) : (s.setV x b).sp = s.sp := rfl
@[simp] theorem State.setV_stack (x : Reg) (b : Byte) : (s.setV x b).stack = s.stack := rfl
@[simp] theorem State.setV_dt (x : Reg) (b : Byte) : (s.setV x b).dt = s.dt := rfl
@[simp] theorem State.setV_st (x : Reg) (b : Byte) : (s.setV x b).st = s.st := rfl
@[simp] theorem State.setV_mem (x : Reg) (b : Byte) : (s.setV x b).mem = s.mem := rfl
@[simp] theorem State.setV_disp (x : Reg) (b : Byte) : (s.setV x b).disp = s.disp := rfl
@[simp] theorem State.setV_key (x : Reg) (b : Byte) : (s.setV x b).key = s.key := rfl
@[simp] theorem State.setV_released (x : Reg) (b : Byte) : (s.setV x b).released = s.released := rfl
@[simp] theorem State.setV_fault (x : Reg) (b : Byte) : (s.setV x b).fault = s.fault := rfl
@[simp] theorem State.setV_cfg (x : Reg) (b : Byte) : (s.setV x b).cfg = s.cfg := rfl
@[simp] theorem State.setV_started (x : Reg) (b : Byte) : (s.setV x b).started = s.started := rfl
@[simp] theorem State.setV_draws (x : Reg) (b : Byte) : (s.setV x b).draws = s.draws := rfl
@[simp] theorem State.setV_readByte (x : Reg) (b : Byte) (n : Nat) : (s.setV x b).readByte n = s.readByte n := rfl

@[simp] theorem State.setI_v (a : Addr) : (s.setI a).v = s.v := rfl
@[simp] theorem State.setI_i (a : Addr) : (s.setI a).i = a := rfl
@[simp] theorem State.setI_ip (a : Addr) : (s.setI a).ip = s.ip := rfl
@[simp] theorem State.setI_sp (a : Addr) : (s.setI a).sp = s.sp := rfl
@[simp] theorem State.setI_stack (a : Addr) : (s.setI a).stack = s.stack := rfl
@[simp] theorem State.setI_dt (a : Addr) : (s.setI a).dt = s.dt := rfl
@[simp] theorem State.setI_st (a : Addr) : (s.setI a).st = s.st := rfl
@[simp] theorem State.setI_mem (a : Addr) : (s.setI a).mem = s.mem := rfl
@[simp] theorem State.setI_disp (a : Addr) : (s.setI a).disp = s.disp := rfl
@[simp] theorem State.setI_key (a : Addr) : (s.setI a).key = s.key := rfl
@[simp] theorem State.setI_released (a : Addr) : (s.setI a).released = s.released := rfl
@[simp] theorem State.setI_fault (a : Addr) : (s.setI a).fault = s.fault := rfl
@[simp] theorem State.setI_cfg (a : Addr) : (s.setI a).cfg = s.cfg := rfl
@[simp] theorem State.setI_started (a : Addr) : (s.setI a).started = s.started := rfl
@[simp] theorem State.setI_draws (a : Addr) : (s.setI a).draws = s.draws := rfl
@[simp] theorem State.setI_getV (a : Addr) (z : Reg) : (s.setI a).getV z = s.getV z := rfl
@[simp] theorem State.setI_readByte (a : Addr) (n : Nat) : (s.setI a).readByte n = s.readByte n := rfl

@[simp] theorem State.setIp_v (a : Addr) : (s.setIp a).v = s.v := rfl
@[simp] theorem State.setIp_i (a : Addr) : (s.setIp a).i = s.i := rfl
@[simp] theorem State.setIp_ip (a : Addr) : (s.setIp a).ip = a := rfl
@[simp] theorem State.setIp_sp (a : Addr) : (s.setIp a).sp = s.sp := rfl
@[simp] theorem State.setIp_stack (a : Addr) : (s.setIp a).stack = s.stack := rfl
@[simp] theorem State.setIp_dt (a : Addr) : (s.setIp a).dt = s.dt := rfl
@[simp] theorem State.setIp_st (a : Addr) : (s.setIp a).st = s.st := rfl
@[simp] theorem State.setIp_mem (a : Addr) : (s.setIp a).mem = s.mem := rfl
@[simp] theorem State.setIp_disp (a : Addr) : (s.setIp a).disp = s.disp := rfl
@[simp] theorem State.setIp_key (a : Addr) : (s.setIp a).key = s.key := rfl
@[simp] theorem State.setIp_released (a : Addr) : (s.setIp a).released = s.released := rfl
@[simp] theorem State.setIp_fault (a : Addr) : (s.setIp a).fault = s.fault := rfl
@[simp] theorem State.setIp_cfg (a : Addr) : (s.setIp a).cfg = s.cfg := rfl
@[simp] theorem State.setIp_started (a : Addr) : (s.setIp a).started = s.started := rfl
@[simp] theorem State.setIp_draws (a : Addr) : (s.setIp a).draws = s.draws := rfl
@[simp] theorem State.setIp_getV (a : Addr) (z : Reg) : (s.setIp a).getV z = s.getV z := rfl
@[simp] theorem State.setIp_readByte (a : Addr) (n : Nat) : (s.setIp a).readByte n = s.readByte n := rfl

@[simp] theorem State.writeByte_v (a : Nat) (b : Byte) : (s.writeByte a b).v = s.v := rfl
@[simp] theorem State.writeByte_i (a : Nat) (b : Byte) : (s.writeByte a b).i = s.i := rfl
@[simp] theorem State.writeByte_ip (a : Nat) (b : Byte) : (s.writeByte a b).ip = s.ip := rfl
@[simp] theorem State.writeByte_sp (a : Nat) (b : Byte) : (s.writeByte a b).sp = s.sp := rfl
@[simp] theorem State.writeByte_stack (a : Nat) (b : Byte) : (s.writeByte a b).stack = s.stack := rfl
@[simp] theorem State.writeByte_dt (a : Nat) (b : Byte) : (s.writeByte a b).dt = s.dt := rfl
@[simp] theorem State.writeByte_st (a : Nat) (b : Byte) : (s.writeByte a b).st = s.st := rfl
@[simp] theorem State.writeByte_mem (a : Nat) (b : Byte) : (s.writeByte a b).mem = Memory.write s.cfg.fontTable s.mem a b := rfl
@[simp] theorem State.writeByte_disp (a : Nat) (b : Byte) : (s.writeByte a b).disp = s.disp := rfl
@[simp] theorem State.writeByte_key (a : Nat) (b : Byte) : (s.writeByte a b).key = s.key := rfl
@[simp] theorem State.writeByte_released (a : Nat) (b : Byte) : (s.writeByte a b).released = s.released := rfl
@[simp] theorem State.writeByte_fault (a : Nat) (b : Byte) : (s.writeByte a b).fault = s.fault := rfl
@[simp] theorem State.writeByte_cfg (a : Nat) (b : Byte) : (s.writeByte a b).cfg = s.cfg := rfl
@[simp] theorem State.writeByte_started (a : Nat) (b : Byte) : (s.writeByte a b).started = s.started := rfl
@[simp] theorem State.writeByte_draws (a : Nat) (b : Byte) : (s.writeByte a b).draws = s.draws := rfl
@[simp] theorem State.writeByte_getV (a : Nat) (b : Byte) (z : Reg) : (s.writeByte a b).getV z = s.getV z := rfl

@[simp] theorem State.push_v (a : Addr) : (s.push a).v = s.v := rfl
@[simp] theorem State.push_i (a : Addr) : (s.push a).i = s.i := rfl
@[simp] theorem State.push_ip (a : Addr) : (s.push a).ip = s.ip := rfl
@[simp] theorem State.push_sp (a : Addr) : (s.push a).sp = s.sp + 1 := rfl
@[simp] theorem State.push_stack (a : Addr) : (s.push a).stack = s.stack.setIfInBounds s.sp.val a := rfl
@[simp] theorem State.push_dt (a : Addr) : (s.push a).dt = s.dt := rfl
@[simp] theorem State.push_st (a : Addr) : (s.push a).st = s.st := rfl
@[simp] theorem State.push_mem (a : Addr) : (s.push a).mem = s.mem := rfl
@[simp] theorem State.push_disp (a : Addr) : (s.push a).disp = s.disp := rfl
@[simp] theorem State.push_key (a : Addr) : (s.push a).key = s.key := rfl
@[simp] theorem State.push_released (a : Addr) : (s.push a).released = s.released := rfl
@[simp] theorem State.push_fault (a : Addr) : (s.push a).fault = s.fault := rfl
@[simp] theorem State.push_cfg (a : Addr) : (s.push a).cfg = s.cfg := rfl
@[simp] theorem State.push_started (a : Addr) : (s.push a).started = s.started := rfl
@[simp] theorem State.push_draws (a : Addr) : (s.push a).draws = s.draws := rfl
@[simp] theorem State.push_getV (a : Addr) (z : Reg) : (s.push a).getV z = s.getV z := rfl
@[simp] theorem State.push_readByte (a : Addr) (n : Nat) : (s.push a).readByte n = s.readByte n := rfl

@[simp] theorem State.dropTop_v : (s.dropTop).v = s.v := rfl
@[simp] theorem State.dropTop_i : (s.dropTop).i = s.i := rfl
@[simp] theorem State.dropTop_ip : (s.dropTop).ip = s.ip := rfl
@[simp] theorem State.dropTop_sp : (s.dropTop).sp = s.sp - 1 := rfl
@[simp] theorem State.dropTop_stack : (s.dropTop).stack = s.stack := rfl
@[simp] theorem State.dropTop_dt : (s.dropTop).dt = s.dt := rfl
@[simp] theorem State.dropTop_st : (s.dropTop).st = s.st := rfl
@[simp] theorem State.dropTop_mem : (s.dropTop).mem = s.mem := rfl
@[simp] theorem State.dropTop_disp : (s.dropTop).disp = s.disp := rfl
@[simp] theorem State.dropTop_key : (s.dropTop).key = s.key := rfl
@[simp] theorem State.dropTop_released : (s.dropTop).released = s.released := rfl
@[simp] theorem State.dropTop_fault : (s.dropTop).fault = s.fault := rfl
@[simp] theorem State.dropTop_cfg : (s.dropTop).cfg = s.cfg := rfl
@[simp] theorem State.dropTop_started : (s.dropTop).started = s.started := rfl
@[simp] theorem State.dropTop_draws : (s.dropTop).draws = s.draws := rfl
@[simp] theorem State.dropTop_getV (z : Reg) : (s.dropTop).getV z = s.getV z := rfl
@[simp] theorem State.dropTop_readByte (n : Nat) : (s.dropTop).readByte n = s.readByte n := rfl

@[simp] theorem State.advanced_v : (s.advanced).v = s.v := rfl
@[simp] theorem State.advanced_i : (s.advanced).i = s.i := rfl
@[simp] theorem State.advanced_ip : (s.advanced).ip = s.ip + 2 := rfl
@[simp] theorem State.advanced_sp : (s.advanced).sp = s.sp := rfl
@[simp] theorem State.advanced_stack : (s.advanced).stack = s.stack := rfl
@[simp] theorem State.advanced_dt : (s.advanced).dt = s.dt := rfl
@[simp] theorem State.advanced_st : (s.advanced).st = s.st := rfl
@[simp] theorem State.advanced_mem : (s.advanced).mem = s.mem := rfl
@[simp] theorem State.advanced_disp : (s.advanced).disp = s.disp := rfl
@[simp] theorem State.advanced_key : (s.advanced).key = s.key := rfl
@[simp] theorem State.advanced_released : (s.advanced).released = s.released := rfl
@[simp] theorem State.advanced_fault : (s.advanced).fault = s.fault := rfl
@[simp] theorem State.advanced_cfg : (s.advanced).cfg = s.cfg := rfl
@[simp] theorem State.advanced_started : (s.advanced).started = true := rfl
@[simp] theorem State.advanced_draws : (s.advanced).draws = s.draws := rfl
@[simp] theorem State.advanced_getV (z : Reg) : (s.advanced).getV z = s.getV z := rfl
@[simp] theorem State.advanced_readByte (n : Nat) : (s.advanced).readByte n = s.readByte n := rfl

@[simp] theorem State.setResultFlag_i (x : Reg) (r f : Byte) : (s.setResultFlag x r f).i = s.i := rfl
@[simp] theorem State.setResultFlag_ip (x : Reg) (r f : Byte) : (s.setResultFlag x r f).ip = s.ip := rfl
@[simp] theorem State.setResultFlag_sp (x : Reg) (r f : Byte) : (s.setResultFlag x r f).sp = s.sp := rfl
@[simp] theorem State.setResultFlag_stack (x : Reg) (r f : Byte) : (s.setResultFlag x r f).stack = s.stack := rfl
@[simp] theorem State.setResultFlag_dt (x : Reg) (r f : Byte) : (s.setResultFlag x r f).dt = s.dt := rfl
@[simp] theorem State.setResultFlag_st (x : Reg) (r f : Byte) : (s.setResultFlag x r f).st = s.st := rfl
@[simp] theorem State.setResultFlag_mem (x : Reg) (r f : Byte) : (s.setResultFlag x r f).mem = s.mem := rfl
@[simp] theorem State.setResultFlag_disp (x : Reg) (r f : Byte) : (s.setResultFlag x r f).disp = s.disp := rfl
@[simp] theorem State.setResultFlag_key (x : Reg) (r f : Byte) : (s.setResultFlag x r f).key = s.key := rfl
@[simp] theorem State.setResultFlag_released (x : Reg) (r f : Byte) : (s.setResultFlag x r f).released = s.released := rfl
@[simp] theorem State.setResultFlag_fault (x : Reg) (r f : Byte) : (s.setResultFlag x r f).fault = s.fault := rfl
@[simp] theorem State.setResultFlag_cfg (x : Reg) (r f : Byte) : (s.setResultFlag x r f).cfg = s.cfg := rfl
@[simp] theorem State.setResultFlag_started (x : Reg) (r f : Byte) : (s.setResultFlag x r f).started = s.started := rfl
@[simp] theorem State.setResultFlag_draws (x : Reg) (r f : Byte) : (s.setResultFlag x r f).draws = s.draws := rfl
@[simp] theorem State.setResultFlag_readByte (x : Reg) (r f : Byte) (n : Nat) : (s.setResultFlag x r f).readByte n = s.readByte n := rfl

@[simp] theorem State.timerPulse_v : (s.timerPulse).v = s.v := rfl
@[simp] theorem State.timerPulse_i : (s.timerPulse).i = s.i := rfl
@[simp] theorem State.timerPulse_ip : (s.timerPulse).ip = s.ip := rfl
@[simp] theorem State.timerPulse_sp : (s.timerPulse).sp = s.sp := rfl
@[simp] theorem State.timerPulse_stack : (s.timerPulse).stack = s.stack := rfl
@[simp] theorem State.timerPulse_dt : (s.timerPulse).dt = countDown s.dt := rfl
@[simp] theorem State.timerPulse_st : (s.timerPulse).st = countDown s.st := rfl
@[simp] theorem State.timerPulse_mem : (s.timerPulse).mem = s.mem := rfl
@[simp] theorem State.timerPulse_disp : (s.timerPulse).disp = s.disp := rfl
@[simp] theorem State.timerPulse_key : (s.timerPulse).key = s.key := rfl
@[simp] theorem State.timerPulse_released : (s.timerPulse).released = s.released := rfl
@[simp] theorem State.timerPulse_fault : (s.timerPulse).fault = s.fault := rfl
@[simp] theorem State.timerPulse_cfg : (s.timerPulse).cfg = s.cfg := rfl
@[simp] theorem State.timerPulse_started : (s.timerPulse).started = s.started := rfl
@[simp] theorem State.timerPulse_draws : (s.timerPulse).draws = s.draws := rfl
@[simp] theorem State.timerPulse_getV (z : Reg) : (s.timerPulse).getV z = s.getV z := rfl
@[simp] theorem State.timerPulse_readByte (n : Nat) : (s.timerPulse).readByte n = s.readByte n := rfl

@[simp] theorem State.setKey_v (k : Key) (b : Bool) : (s.setKey k b).v = s.v := rfl
@[simp] theorem State.setKey_i (k : Key) (b : Bool) : (s.setKey k b).i = s.i := rfl
@[simp] theorem State.setKey_ip (k : Key) (b : Bool) : (s.setKey k b).ip = s.ip := rfl
@[simp] theorem State.setKey_sp (k : Key) (b : Bool) : (s.setKey k b).sp = s.sp := rfl
@[simp] theorem State.setKey_stack (k : Key) (b : Bool) : (s.setKey k b).stack = s.stack := rfl
@[simp] theorem State.setKey_dt (k : Key) (b : Bool) : (s.setKey k b).dt = s.dt := rfl
@[simp] theorem State.setKey_st (k : Key) (b : Bool) : (s.setKey k b).st = s.st := rfl
@[simp] theorem State.setKey_mem (k : Key) (b : Bool) : (s.setKey k b).mem = s.mem := rfl
@[simp] theorem State.setKey_disp (k : Key) (b : Bool) : (s.setKey k b).disp = s.disp := rfl
@[simp] theorem State.setKey_released (k : Key) (b : Bool) : (s.setKey k b).released = s.released := rfl
@[simp] theorem State.setKey_fault (k : Key) (b : Bool) : (s.setKey k b).fault = s.fault := rfl
@[simp] theorem State.setKey_cfg (k : Key) (b : Bool) : (s.setKey k b).cfg = s.cfg := rfl
@[simp] theorem State.setKey_started (k : Key) (b : Bool) : (s.setKey k b).started = s.started := rfl
@[simp] theorem State.setKey_draws (k : Key) (b : Bool) : (s.setKey k b).draws = s.draws := rfl
@[simp] theorem State.setKey_getV (k : Key) (b : Bool) (z : Reg) : (s.setKey k b).getV z = s.getV z := rfl
@[simp] theorem State.setKey_readByte (k : Key) (b : Bool) (n : Nat) : (s.setKey k b).readByte n = s.readByte n := rfl

@[simp] theorem State.press_v (k : Key) : (s.press k).v = s.v := rfl
@[simp] theorem State.press_i (k : Key) : (s.press k).i = s.i := rfl
@[simp] theorem State.press_ip (k : Key) : (s.press k).ip = s.ip := rfl
@[simp] theorem State.press_sp (k : Key) : (s.press k).sp = s.sp := rfl
@[simp] theorem State.press_stack (k : Key) : (s.press k).stack = s.stack := rfl
@[simp] theorem State.press_dt (k : Key) : (s.press k).dt = s.dt := rfl
@[simp] theorem State.press_st (k : Key) : (s.press k).st = s.st := rfl
@[simp] theorem State.press_mem (k : Key) : (s.press k).mem = s.mem := rfl
@[simp] theorem State.press_disp (k : Key) : (s.press k).disp = s.disp := rfl
@[simp] theorem State.press_released (k : Key) : (s.press k).released = none := rfl
@[simp] theorem State.press_fault (k : Key) : (s.press k).fault = s.fault := rfl
@[simp] theorem State.press_cfg (k : Key) : (s.press k).cfg = s.cfg := rfl
@[simp] theorem State.press_started (k : Key) : (s.press k).started = s.started := rfl
@[simp] theorem State.press_draws (k : Key) : (s.press k).draws = s.draws := rfl
@[simp] theorem State.press_getV (k : Key) (z : Reg) : (s.press k).getV z = s.getV z := rfl
@[simp] theorem State.press_readByte (k : Key) (n : Nat) : (s.press k).readByte n = s.readByte n := rfl

@[simp] theorem State.release_v (k : Key) : (s.release k).v = s.v := rfl
@[simp] theorem State.release_i (k : Key) : (s.release k).i = s.i := rfl
@[simp] theorem State.release_ip (k : Key) : (s.release k).ip = s.ip := rfl
@[simp] theorem State.release_sp (k : Key) : (s.release k).sp = s.sp := rfl
@[simp] theorem State.release_stack (k : Key) : (s.release k).stack = s.stack := rfl
@[simp] theorem State.release_dt (k : Key) : (s.release k).dt = s.dt := rfl
@[simp] theorem State.release_st (k : Key) : (s.release k).st = s.st := rfl
@[simp] theorem State.release_mem (k : Key) : (s.release k).mem = s.mem := rfl
@[simp] theorem State.release_disp (k : Key) : (s.release k).disp = s.disp := rfl
@[simp] theorem State.release_released (k : Key) : (s.release k).released = some k := rfl
@[simp] theorem State.release_fault (k : Key) : (s.release k).fault = s.fault := rfl
@[simp] theorem State.release_cfg (k : Key) : (s.release k).cfg = s.cfg := rfl
@[simp] theorem State.release_started (k : Key) : (s.release k).started = s.started := rfl
@[simp] theorem State.release_draws (k : Key) : (s.release k).draws = s.draws := rfl
@[simp] theorem State.release_getV (k : Key) (z : Reg) : (s.release k).getV z = s.getV z := rfl
@[simp] theorem State.release_readByte (k : Key) (n : Nat) : (s.release k).readByte n = s.readByte n := rfl

@[simp] theorem State.setV_getV_same (x : Reg) (b : Byte) : (s.setV x b).getV x = b := by
  simp [State.getV, State.setV]

theorem State.setV_getV_ne {x z : Reg} (h : z ≠ x) (b : Byte) :
    (s.setV x b).getV z = s.getV z := by
  have hne : x.toNat ≠ z.toNat := fun e => h (BitVec.eq_of_toNat_eq e.symm)
  simp [State.getV, State.setV, Vector.getElem_set_ne, hne]

/-- Reading a register after writing one. -/
theorem State.setV_getV (x z : Reg) (b : Byte) :
    (s.setV x b).getV z = if z = x then b else s.getV z := by
  split
  · next h => subst h; exact State.setV_getV_same s z b
  · next h => exact State.setV_getV_ne s h b

/-- R73: after a result and a flag, VF holds the flag whatever the destination. -/
@[simp] theorem State.setResultFlag_getV_vf (x : Reg) (r f : Byte) :
    (s.setResultFlag x r f).getV regVF = f := State.setV_getV_same _ _ _

/-- R73: the result stands in any other destination. -/
theorem State.setResultFlag_getV_dest {x : Reg} (h : x ≠ regVF) (r f : Byte) :
    (s.setResultFlag x r f).getV x = r := by
  rw [State.setResultFlag, State.setV_getV_ne _ h, State.setV_getV_same]

/-- R73: no other register changes. -/
theorem State.setResultFlag_getV_other {x z : Reg} (hx : z ≠ x) (hf : z ≠ regVF) (r f : Byte) :
    (s.setResultFlag x r f).getV z = s.getV z := by
  rw [State.setResultFlag, State.setV_getV_ne _ hf, State.setV_getV_ne _ hx]

/-- A skip changes ip alone. -/
theorem State.skipIf_eq (c : Bool) :
    s.skipIf c = { s with ip := if c then s.ip + 2 else s.ip } := by
  cases c <;> rfl

/-- Two register files are equal when every register reads the same. -/
theorem State.v_ext {s t : State} (h : ∀ z : Reg, s.getV z = t.getV z) : s.v = t.v := by
  apply Vector.ext
  intro k hk
  have hk' := h (BitVec.ofNat 4 k)
  have e : (BitVec.ofNat 4 k).toNat = k := by simp; omega
  simpa [State.getV, e] using hk'

/-- A key level after one is set. -/
theorem State.setKey_keyDown (k j : Key) (b : Bool) :
    (s.setKey k b).keyDown j = if j = k then b else s.keyDown j := by
  by_cases h : j = k
  · subst h; simp [State.keyDown, State.setKey]
  · have hne : k.toNat ≠ j.toNat := fun e => h (BitVec.eq_of_toNat_eq e.symm)
    simp [State.keyDown, State.setKey, Vector.getElem_set_ne, hne, h]

end Sys2Proof.Machine
end

