-- ==== Sys2Proof/Laws/Display.lean ====
section
/-! SUPPORT. The display: reading a point after setting one, clearing, setting all, and what the
blit does to every point and to the collision. -/

namespace Sys2Proof.Machine

theorem dispGet_dispSet (d : Display) (r r' : Fin 32) (c c' : Fin 64) (b : Bool) :
    dispGet (dispSet d r c b) r' c' = if r' = r ∧ c' = c then b else dispGet d r' c' := by
  unfold dispGet dispSet
  by_cases hr : r' = r
  · subst hr
    have hc' := c'.isLt
    by_cases hc : c' = c
    · subst hc
      cases b <;> simp [hc']
    · have hne : c.val ≠ c'.val := fun e => hc (Fin.ext e.symm)
      cases b <;> simp [hc, Ne.symm hne, hc']
  · have hne : r.val ≠ r'.val := fun e => hr (Fin.ext e.symm)
    simp [hr, Vector.getElem_set_ne, hne]

@[simp] theorem dispGet_dispClear (r : Fin 32) (c : Fin 64) : dispGet dispClear r c = false := by
  simp [dispGet, dispClear]

@[simp] theorem dispGet_dispSetAll (r : Fin 32) (c : Fin 64) : dispGet dispSetAll r c = true := by
  unfold dispGet dispSetAll
  rw [Fin.getElem_fin, Vector.getElem_replicate, BitVec.getLsbD_allOnes]
  exact decide_eq_true c.isLt

/-- Two displays are equal when every point reads the same. -/
theorem disp_ext {d e : Display} (h : ∀ r c, dispGet d r c = dispGet e r c) : d = e := by
  apply Vector.ext
  intro r hr
  apply BitVec.eq_of_getLsbD_eq
  intro c hc
  exact h ⟨r, hr⟩ ⟨c, hc⟩

/-- The sprite column that falls on display column `c` when the sprite starts at `x0`. -/
def colOffset (x0 : Nat) (c : Fin 64) : Nat := (c.val + 64 - x0 % 64) % 64

/-- The bit a sprite row puts on a point: on its own display row, within its first `m` columns. -/
def rowBit (r : Fin 32) (x0 : Nat) (b : Byte) (m : Nat) (r' : Fin 32) (c : Fin 64) : Bool :=
  decide (r' = r) && decide (colOffset x0 c < m) && b.getLsbD (7 - colOffset x0 c)

theorem column_hit (x0 k : Nat) (hk : k < 64) (c : Fin 64) :
    c = wrapCol (x0 + k) ↔ colOffset x0 c = k := by
  have := c.isLt
  simp only [Fin.ext_iff, wrapCol, colOffset]
  omega

theorem rowBit_succ (r : Fin 32) (x0 : Nat) (b : Byte) (m : Nat) (r' : Fin 32) (c : Fin 64) :
    rowBit r x0 b (m + 1) r' c =
      (rowBit r x0 b m r' c ||
        (decide (r' = r) && decide (colOffset x0 c = m) && b.getLsbD (7 - m))) := by
  unfold rowBit
  by_cases h : colOffset x0 c = m
  · simp [h]
  · have : (colOffset x0 c < m + 1) ↔ (colOffset x0 c < m) := by omega
    simp [h, this]

/-- The first `m` pixels of a sprite row. -/
theorem drawPixels_spec (r : Fin 32) (x0 : Nat) (b : Byte) (p : Display × Bool) (m : Nat)
    (hm : m ≤ 64) :
    (∀ r' c, dispGet ((List.range m).foldl (drawPixel r x0 b) p).1 r' c =
      (dispGet p.1 r' c ^^ rowBit r x0 b m r' c)) ∧
    (((List.range m).foldl (drawPixel r x0 b) p).2 = true ↔
      p.2 = true ∨ ∃ r' c, dispGet p.1 r' c = true ∧ rowBit r x0 b m r' c = true) := by
  induction m with
  | zero => simp [rowBit]
  | succ m ih =>
    obtain ⟨ih1, ih2⟩ := ih (by omega)
    rw [List.range_succ, List.foldl_append]
    set q := (List.range m).foldl (drawPixel r x0 b) p with hq
    have hfix : colOffset x0 (wrapCol (x0 + m)) = m :=
      (column_hit x0 m (by omega) _).1 rfl
    have hnew : rowBit r x0 b m r (wrapCol (x0 + m)) = false := by simp [rowBit, hfix]
    constructor
    · intro r' c
      simp only [List.foldl_cons, List.foldl_nil, drawPixel, dispGet_dispSet, ih1, rowBit_succ]
      split
      · next h =>
        obtain ⟨rfl, rfl⟩ := h
        simp [hnew, hfix]
      · next h =>
        have : (decide (r' = r) && decide (colOffset x0 c = m)) = false := by
          rw [column_hit x0 m (by omega)] at h
          simpa using h
        simp [this]
    · simp only [List.foldl_cons, List.foldl_nil, drawPixel, Bool.or_eq_true, ih2, ih1, hnew,
        rowBit_succ]
      constructor
      · rintro ((h | ⟨r', c, h1, h2⟩) | h)
        · exact Or.inl h
        · exact Or.inr ⟨r', c, h1, Or.inl h2⟩
        · refine Or.inr ⟨r, wrapCol (x0 + m), ?_, Or.inr ?_⟩
          · revert h; cases dispGet p.1 r (wrapCol (x0 + m)) <;> simp
          · revert h
            rw [hfix]
            cases dispGet p.1 r (wrapCol (x0 + m)) <;> simp
      · rintro (h | ⟨r', c, h1, h2 | h2⟩)
        · exact Or.inl (Or.inl h)
        · exact Or.inl (Or.inr ⟨r', c, h1, h2⟩)
        · simp only [Bool.and_eq_true, decide_eq_true_eq] at h2
          obtain ⟨⟨rfl, hc⟩, hb⟩ := h2
          obtain rfl := (column_hit x0 m (by omega) c).2 hc
          right
          simp [h1, hb]

/-- One sprite row (R60): every point, and the collision. -/
theorem drawRow_spec (r : Fin 32) (x0 : Nat) (b : Byte) (p : Display × Bool) :
    (∀ r' c, dispGet (drawRow r x0 b p).1 r' c = (dispGet p.1 r' c ^^ rowBit r x0 b 8 r' c)) ∧
    ((drawRow r x0 b p).2 = true ↔
      p.2 = true ∨ ∃ r' c, dispGet p.1 r' c = true ∧ rowBit r x0 b 8 r' c = true) :=
  drawPixels_spec r x0 b p 8 (by omega)

/-- The sprite row that falls on display row `r` when the sprite starts at `y0`. -/
def rowOffset (y0 : Nat) (r : Fin 32) : Nat := (r.val + 32 - y0 % 32) % 32

/-- The bit the first `m` rows of a sprite put on a point. -/
def blitBit (byteAt : Nat → Byte) (base x0 y0 m : Nat) (r : Fin 32) (c : Fin 64) : Bool :=
  decide (rowOffset y0 r < m) && decide (colOffset x0 c < 8) &&
    (byteAt (base + rowOffset y0 r)).getLsbD (7 - colOffset x0 c)

theorem row_hit (y0 j : Nat) (hj : j < 32) (r : Fin 32) :
    r = wrapRow (y0 + j) ↔ rowOffset y0 r = j := by
  have := r.isLt
  simp only [Fin.ext_iff, wrapRow, rowOffset]
  omega

theorem rowBit_eq (byteAt : Nat → Byte) (base x0 y0 m : Nat) (hm : m < 32) (r : Fin 32)
    (c : Fin 64) :
    rowBit (wrapRow (y0 + m)) x0 (byteAt (base + m)) 8 r c =
      (decide (rowOffset y0 r = m) && decide (colOffset x0 c < 8) &&
        (byteAt (base + rowOffset y0 r)).getLsbD (7 - colOffset x0 c)) := by
  unfold rowBit
  by_cases h : rowOffset y0 r = m
  · rw [(row_hit y0 m hm r).2 h] at *
    simp [h]
  · have h' : r ≠ wrapRow (y0 + m) := fun e => h ((row_hit y0 m hm r).1 e)
    simp [h, h']

theorem blitBit_succ (byteAt : Nat → Byte) (base x0 y0 m : Nat) (hm : m < 32) (r : Fin 32)
    (c : Fin 64) :
    blitBit byteAt base x0 y0 (m + 1) r c =
      (blitBit byteAt base x0 y0 m r c ||
        rowBit (wrapRow (y0 + m)) x0 (byteAt (base + m)) 8 r c) := by
  rw [rowBit_eq byteAt base x0 y0 m hm]
  unfold blitBit
  by_cases h : rowOffset y0 r = m
  · simp [h]
  · have : (rowOffset y0 r < m + 1) ↔ (rowOffset y0 r < m) := by omega
    simp [h, this]

/-- The blit (R60): every point, and the collision. No row is visited twice, since a sprite has
fewer than 32 rows (R60 (f)). -/
theorem drawRows_spec (byteAt : Nat → Byte) (base x0 y0 m : Nat) (hm : m ≤ 32)
    (p : Display × Bool) :
    (∀ r c, dispGet (drawRows byteAt base x0 y0 m p).1 r c =
      (dispGet p.1 r c ^^ blitBit byteAt base x0 y0 m r c)) ∧
    ((drawRows byteAt base x0 y0 m p).2 = true ↔
      p.2 = true ∨ ∃ r c, dispGet p.1 r c = true ∧ blitBit byteAt base x0 y0 m r c = true) := by
  induction m with
  | zero => simp [drawRows, blitBit]
  | succ m ih =>
    obtain ⟨ih1, ih2⟩ := ih (by omega)
    have hm' : m < 32 := by omega
    obtain ⟨h1, h2⟩ := drawRow_spec (wrapRow (y0 + m)) x0 (byteAt (base + m))
      (drawRows byteAt base x0 y0 m p)
    have disjoint : ∀ r c, blitBit byteAt base x0 y0 m r c = true →
        rowBit (wrapRow (y0 + m)) x0 (byteAt (base + m)) 8 r c = false := by
      intro r c hb
      rw [rowBit_eq byteAt base x0 y0 m hm']
      have : rowOffset y0 r ≠ m := by
        simp only [blitBit, Bool.and_eq_true, decide_eq_true_eq] at hb
        omega
      simp [this]
    constructor
    · intro r c
      simp only [drawRows, h1, ih1, blitBit_succ byteAt base x0 y0 m hm']
      have := disjoint r c
      revert this
      cases blitBit byteAt base x0 y0 m r c <;>
        cases rowBit (wrapRow (y0 + m)) x0 (byteAt (base + m)) 8 r c <;> simp
    · simp only [drawRows, h2, ih1, ih2, blitBit_succ byteAt base x0 y0 m hm', Bool.or_eq_true]
      constructor
      · rintro ((h | ⟨r, c, ha, hb⟩) | ⟨r, c, ha, hb⟩)
        · exact Or.inl h
        · exact Or.inr ⟨r, c, ha, Or.inl hb⟩
        · refine Or.inr ⟨r, c, ?_, Or.inr hb⟩
          have := disjoint r c
          revert ha this
          rw [hb]
          cases blitBit byteAt base x0 y0 m r c <;> simp
      · rintro (h | ⟨r, c, ha, hb | hb⟩)
        · exact Or.inl (Or.inl h)
        · exact Or.inl (Or.inr ⟨r, c, ha, hb⟩)
        · refine Or.inr ⟨r, c, ?_, hb⟩
          have := disjoint r c
          revert this
          rw [ha, hb]
          cases blitBit byteAt base x0 y0 m r c <;> simp

end Sys2Proof.Machine
end

