-- ==== Sys2Proof/Laws/Memory.lean ====
section
/-! SUPPORT. Memory: reading after writing, the canonical form, and what writing or loading several
bytes does. -/

namespace Sys2Proof.Machine

theorem Memory.find_put (m : Memory) (a c : Nat) (b : Byte) :
    Memory.find (Memory.put m a b) c = if c = a then some b else Memory.find m c := by
  induction m with
  | nil => simp [Memory.put, Memory.find, eq_comm]
  | cons e m ih =>
    obtain ⟨k, d⟩ := e
    simp only [Memory.put]
    split
    · simp [Memory.find, eq_comm]
    · split
      · next h => subst h; simp [Memory.find, eq_comm]; split <;> simp_all
      · next h1 h2 =>
        simp only [Memory.find, ih]
        split <;> split <;> simp_all

theorem Memory.find_drop (m : Memory) (a c : Nat) :
    Memory.find (Memory.drop m a) c = if c = a then none else Memory.find m c := by
  induction m with
  | nil => simp [Memory.drop, Memory.find]
  | cons e m ih =>
    obtain ⟨k, d⟩ := e
    simp only [Memory.drop]
    split
    · next h =>
      subst h
      by_cases hc : c = k
      · subst hc; simpa using ih
      · simp [ih, Memory.find, hc, Ne.symm hc]
    · next h =>
      simp only [Memory.find, ih]
      by_cases hk : k = c
      · subst hk; simp [h]
      · simp [hk]

theorem Memory.mem_put {m : Memory} {a : Nat} {b : Byte} {c : Host.Cell}
    (h : c ∈ Memory.put m a b) : c = (a, b) ∨ c ∈ m := by
  induction m with
  | nil => simpa [Memory.put] using h
  | cons e m ih =>
    obtain ⟨k, d⟩ := e
    simp only [Memory.put] at h
    split at h
    · simpa using h
    · split at h
      · simp only [List.mem_cons] at h ⊢; tauto
      · simp only [List.mem_cons] at h ⊢
        rcases h with h | h
        · tauto
        · have := ih h; tauto

theorem Memory.mem_drop {m : Memory} {a : Nat} {c : Host.Cell} (h : c ∈ Memory.drop m a) :
    c ∈ m := by
  induction m with
  | nil => exact h
  | cons e m ih =>
    obtain ⟨k, d⟩ := e
    simp only [Memory.drop] at h
    split at h
    · exact List.mem_cons_of_mem _ (ih h)
    · simp only [List.mem_cons] at h ⊢
      exact h.imp id ih

theorem Memory.put_rising {m : Memory} (hs : m.Pairwise (fun c d => c.1 < d.1)) (a : Nat)
    (b : Byte) : (Memory.put m a b).Pairwise (fun c d => c.1 < d.1) := by
  induction m with
  | nil => simp [Memory.put]
  | cons e m ih =>
    obtain ⟨k, d⟩ := e
    have hs' := List.pairwise_cons.1 hs
    simp only [Memory.put]
    split
    · next h =>
      refine List.pairwise_cons.2 ⟨fun c hc => ?_, hs⟩
      rcases List.mem_cons.1 hc with rfl | hc
      · exact h
      · exact lt_trans h (hs'.1 c hc)
    · split
      · next h => subst h; exact List.pairwise_cons.2 hs'
      · next h1 h2 =>
        refine List.pairwise_cons.2 ⟨fun c hc => ?_, ih hs'.2⟩
        rcases Memory.mem_put hc with rfl | hc
        · show k < a; omega
        · exact hs'.1 c hc

theorem Memory.drop_rising {m : Memory} (hs : m.Pairwise (fun c d => c.1 < d.1)) (a : Nat) :
    (Memory.drop m a).Pairwise (fun c d => c.1 < d.1) := by
  induction m with
  | nil => exact hs
  | cons e m ih =>
    obtain ⟨k, d⟩ := e
    have hs' := List.pairwise_cons.1 hs
    simp only [Memory.drop]
    split
    · exact ih hs'.2
    · exact List.pairwise_cons.2 ⟨fun c hc => hs'.1 c (Memory.mem_drop hc), ih hs'.2⟩

/-- Every write keeps the canonical form. -/
theorem Memory.write_wf {font : FontTable} {m : Memory} (h : Memory.wf font m) (a : Nat)
    (b : Byte) : Memory.wf font (Memory.write font m a b) := by
  unfold Memory.write
  split
  · next ha =>
    split
    · exact ⟨Memory.drop_rising h.1 a, fun c hc => h.2 c (Memory.mem_drop hc)⟩
    · next hb =>
      refine ⟨Memory.put_rising h.1 a b, fun c hc => ?_⟩
      rcases Memory.mem_put hc with rfl | hc
      · exact ⟨ha, hb⟩
      · exact h.2 c hc
  · exact h

/-- Reading after a write: the byte written at its own address, elsewhere what stood there. -/
theorem Memory.read_write (font : FontTable) (m : Memory) {a : Nat} (ha : a < memSize)
    (b : Byte) (c : Nat) :
    Memory.read font (Memory.write font m a b) c = if c = a then b else Memory.read font m c := by
  unfold Memory.write Memory.read
  rw [if_pos ha]
  split
  · next hb =>
    rw [Memory.find_drop]
    split
    · next hc => subst hc; simp [hb]
    · rfl
  · rw [Memory.find_put]
    split <;> rfl

/-- The empty list, memory at reset, is canonical. -/
theorem Memory.nil_wf (font : FontTable) : Memory.wf font [] := by
  simp [Memory.wf]

theorem Memory.find_mem {font : FontTable} {m : Memory} (h : Memory.wf font m) (a : Nat) (b : Byte) :
    Memory.find m a = some b ↔ (a, b) ∈ m := by
  obtain ⟨hs, -⟩ := h
  induction m with
  | nil => simp [Memory.find]
  | cons e m ih =>
    obtain ⟨k, d⟩ := e
    rw [List.pairwise_cons] at hs
    simp only [Memory.find, List.mem_cons, Prod.mk.injEq]
    split
    · next hk =>
      subst hk
      constructor
      · intro h; simp_all
      · rintro (⟨-, rfl⟩ | hm)
        · rfl
        · exact absurd (hs.1 _ hm) (lt_irrefl k)
    · next hk =>
      rw [ih hs.2]
      constructor
      · exact Or.inr
      · rintro (⟨rfl, -⟩ | hm)
        · exact absurd rfl hk
        · exact hm

theorem State.writeByte_readByte (s : State) {a : Nat} (ha : a < memSize) (b : Byte) (c : Nat) :
    (s.writeByte a b).readByte c = if c = a then b else s.readByte c :=
  Memory.read_write _ _ ha b c

theorem State.writeBytes_eq (s : State) (a : Nat) (bs : List Byte) :
    s.writeBytes a bs = { s with mem := (s.writeBytes a bs).mem } := by
  induction bs generalizing s a with
  | nil => rfl
  | cons b bs ih => rw [State.writeBytes, ih]; rfl

theorem State.writeBytes_wf {s : State} (h : Memory.wf s.cfg.fontTable s.mem) (a : Nat)
    (bs : List Byte) : Memory.wf s.cfg.fontTable (s.writeBytes a bs).mem := by
  induction bs generalizing s a with
  | nil => exact h
  | cons b bs ih => exact ih (s := s.writeByte a b) (Memory.write_wf h a b) (a + 1)

/-- R28: what writing bytes at ascending addresses does to every byte of memory. -/
theorem State.writeBytes_readByte (s : State) {a : Nat} {bs : List Byte} (ha : a + bs.length ≤ memSize) (c : Nat) :
    (s.writeBytes a bs).readByte c =
      if a ≤ c ∧ c < a + bs.length then bs.getD (c - a) 0 else s.readByte c := by
  induction bs generalizing s a with
  | nil => rw [if_neg (by simp)]; rfl
  | cons b bs ih =>
    simp only [List.length_cons] at ha ⊢
    rw [State.writeBytes, ih (s.writeByte a b) (by omega),
      State.writeByte_readByte s (by omega)]
    by_cases h0 : c = a
    · subst h0; simp
    · by_cases h1 : a + 1 ≤ c ∧ c < a + 1 + bs.length
      · rw [if_pos h1, if_pos (by omega), show c - a = (c - (a + 1)) + 1 by omega]
        simp
      · rw [if_neg h1, if_neg h0, if_neg (by omega)]

theorem State.loadFirst_eq (s : State) (n : Nat) :
    s.loadFirst n = { s with v := (s.loadFirst n).v } := by
  induction n with
  | zero => rfl
  | succ n ih => rw [State.loadFirst, ih]; rfl

/-- The memory after writing bytes depends on the memory and the font before it alone. -/
theorem State.writeBytes_mem_congr {s t : State} (hc : s.cfg = t.cfg) (hm : s.mem = t.mem) (a : Nat)
    (bs : List Byte) : (s.writeBytes a bs).mem = (t.writeBytes a bs).mem := by
  induction bs generalizing s t a with
  | nil => exact hm
  | cons b bs ih =>
    refine ih (s := s.writeByte a b) (t := t.writeByte a b) hc ?_ (a + 1)
    simp [State.writeByte, hc, hm]

/-- The registers after loading depend on the registers, I and memory before it alone. -/
theorem State.loadFirst_v_congr {s t : State} (hv : s.v = t.v) (hi : s.i = t.i)
    (hc : s.cfg = t.cfg) (hm : s.mem = t.mem) (n : Nat) :
    (s.loadFirst n).v = (t.loadFirst n).v := by
  induction n with
  | zero => exact hv
  | succ n ih =>
    have hr : ∀ (u : State) a, (u.loadFirst n).readByte a = u.readByte a := fun u a => by
      rw [State.loadFirst_eq]; rfl
    have hI : ∀ u : State, (u.loadFirst n).i = u.i := fun u => by rw [State.loadFirst_eq]
    have e : s.readByte (s.i.toNat + n) = t.readByte (t.i.toNat + n) := by
      simp [State.readByte, hc, hm, hi]
    simp only [State.loadFirst, State.setV_v, hr, hI, ih, e]

/-- R91: what loading the first registers does to every register. -/
theorem State.loadFirst_getV (s : State) {n : Nat} (hn : n ≤ 16) (z : Reg) :
    (s.loadFirst n).getV z = if z.toNat < n then s.readByte (s.i.toNat + z.toNat) else s.getV z := by
  induction n with
  | zero => rfl
  | succ n ih =>
    have hi : (s.loadFirst n).i = s.i := by rw [State.loadFirst_eq]
    have hr : ∀ a, (s.loadFirst n).readByte a = s.readByte a := fun a => by
      rw [State.loadFirst_eq]; rfl
    have e : (BitVec.ofNat 4 n).toNat = n := by simp; omega
    simp only [State.loadFirst, State.setV_getV, hi, hr]
    split
    · next h => subst h; rw [e, if_pos (by omega)]
    · next h =>
      have hz : z.toNat ≠ n := fun h' => h (BitVec.eq_of_toNat_eq (by rw [e, h']))
      rw [ih (by omega)]
      by_cases hlt : z.toNat < n
      · rw [if_pos hlt, if_pos (by omega)]
      · rw [if_neg hlt, if_neg (by omega)]

theorem State.regsUpTo_length (s : State) (x : Reg) : (s.regsUpTo x).length = x.toNat + 1 := by
  simp [State.regsUpTo]

/-- R90: the `k`-th byte STORE-REGS writes is `V[k]`. -/
theorem State.regsUpTo_getD (s : State) (x z : Reg) (h : z.toNat ≤ x.toNat) :
    (s.regsUpTo x).getD z.toNat 0 = s.getV z := by
  have h' : z.toNat < x.toNat + 1 := by omega
  have e : BitVec.ofNat 4 z.toNat = z := by simp
  simp [State.regsUpTo, h', e]

end Sys2Proof.Machine
end

