-- ==== Sys2Proof/Laws/Operands.lean ====
section
/-! SUPPORT. The call stack, the operand forms and the flags in plain numbers. -/

namespace Sys2Proof.Machine

/-! ## The call stack (R62) -/

theorem State.push_sp_val (s : State) (a : Addr) (h : s.sp.val ≠ 16) :
    (s.push a).sp.val = s.sp.val + 1 := by
  have hlt := s.sp.isLt
  show (s.sp + 1).val = _
  rw [Fin.val_add]
  show (s.sp.val + 1) % 17 = _
  omega

theorem State.push_slot (s : State) (a : Addr) (k : Fin 16) :
    (s.push a).stack[k] = if k.val = s.sp.val then a else s.stack[k] := by
  simp only [State.push_stack, Fin.getElem_fin, Vector.getElem_setIfInBounds, eq_comm]

theorem State.dropTop_sp_val (s : State) (h : s.sp.val ≠ 0) : s.dropTop.sp.val + 1 = s.sp.val := by
  have hlt := s.sp.isLt
  show (s.sp - 1).val + 1 = _
  rw [Fin.sub_def]
  show (17 - 1 + s.sp.val) % 17 + 1 = _
  omega

theorem State.top_eq (s : State) (k : Fin 16) (h : k.val + 1 = s.sp.val) :
    s.top = s.stack[k] := by
  have e : s.sp.val - 1 = k.val := by omega
  simp [State.top, e, Vector.getD, Array.getD]

/-- A pushed address is the next one popped (R62: last in, first out). -/
theorem State.push_top (s : State) (a : Addr) (h : s.sp.val ≠ 16) : (s.push a).top = a := by
  have hlt := s.sp.isLt
  rw [State.top_eq (s.push a) ⟨s.sp.val, by omega⟩ (State.push_sp_val s a h).symm,
    State.push_slot, if_pos rfl]

theorem State.push_dropTop_sp (s : State) (a : Addr) : (s.push a).dropTop.sp = s.sp := by
  show s.sp + 1 - 1 = s.sp
  simp

theorem State.sp_eq_sixteen (s : State) : s.sp = 16 ↔ s.sp.val = 16 := by
  rw [Fin.ext_iff]; rfl

theorem State.sp_eq_zero (s : State) : s.sp = 0 ↔ s.sp.val = 0 := by
  rw [Fin.ext_iff]; rfl

/-! ## Operands -/

@[simp] theorem addrOf_toNat (nnn : Imm12) : (addrOf nnn).toNat = nnn.toNat := by
  have := nnn.isLt
  simp only [addrOf, BitVec.toNat_setWidth]
  omega

theorem byte_toAddr_toNat (b : Byte) : (b.setWidth 16).toNat = b.toNat := by
  have := b.isLt
  simp only [BitVec.toNat_setWidth]
  omega

/-- R70: the sum never wraps. -/
theorem jumpOffset_toNat (nnn : Imm12) (b : Byte) :
    (addrOf nnn + b.setWidth 16).toNat = nnn.toNat + b.toNat := by
  have := nnn.isLt
  have := b.isLt
  rw [BitVec.toNat_add, addrOf_toNat, byte_toAddr_toNat]
  omega

theorem State.keyOperand_toNat (s : State) (x : Reg) :
    (s.keyOperand x).toNat = (s.getV x).toNat % 16 := by
  simp [State.keyOperand]

theorem State.keyDown_eq (s : State) (x : Reg) (k : Fin 16) (h : k.val = (s.getV x).toNat % 16) :
    s.keyDown (s.keyOperand x) = s.key[k] := by
  have e : (s.keyOperand x).toNat = k.val := by rw [State.keyOperand_toNat, h]
  simp [State.keyDown, e]

theorem low_nibble_toNat (b : Byte) : (b &&& 0x0F#8).toNat = b.toNat % 16 := by
  rw [BitVec.toNat_and]
  exact Nat.and_two_pow_sub_one_eq_mod _ 4

theorem glyphAddr_toNat (b : Byte) : (glyphAddr b).toNat = 0x050 + 5 * (b.toNat % 16) := by
  rw [glyphAddr, low_nibble_toNat, BitVec.toNat_ofNat]
  unfold fontBase
  omega

theorem State.startCol_eq (s : State) (x : Reg) : s.startCol x = (s.getV x).toNat % 64 := by
  simp only [State.startCol, BitVec.toNat_and]
  exact Nat.and_two_pow_sub_one_eq_mod _ 6

theorem State.startRow_eq (s : State) (y : Reg) : s.startRow y = (s.getV y).toNat % 32 := by
  simp only [State.startRow, BitVec.toNat_and]
  exact Nat.and_two_pow_sub_one_eq_mod _ 5

/-- The three digits' bytes (R89). -/
theorem bcdDigits_toNat (b : Byte) :
    (bcdDigits b).map BitVec.toNat = [b.toNat / 100, b.toNat / 10 % 10, b.toNat % 10] := by
  have := b.isLt
  simp only [bcdDigits, List.map_cons, List.map_nil, BitVec.toNat_ofNat, List.cons.injEq]
  exact ⟨by omega, by omega, by omega, trivial⟩

/-! ## Flags -/

theorem flagByte_or (c : Bool) : flagByte c = 0 ∨ flagByte c = 1 := by
  cases c <;> simp [flagByte]

theorem flagByte_eq_one (c : Bool) : flagByte c = 1 ↔ c = true := by
  cases c <;> simp [flagByte]

theorem carryFlag_eq (a b : Byte) :
    carryFlag a b = if 255 < a.toNat + b.toNat then 1 else 0 := by
  simp only [carryFlag, flagByte, decide_eq_true_eq]
  rfl

theorem notBorrowFlag_eq (a b : Byte) :
    notBorrowFlag a b = if b.toNat ≤ a.toNat then 1 else 0 := by
  simp only [notBorrowFlag, flagByte, decide_eq_true_eq]
  rfl

end Sys2Proof.Machine
end

