-- ==== Sys2Proof/Laws/PerInstr.lean ====
section
/-! SUPPORT. Per instruction: it has an encoding exactly where it is well-formed (R44, R45). -/

namespace Sys2Proof.Laws.EncodeDefined

/-- An instruction has a word exactly on the machines on which it exists. -/
def Statement (i : Instr) : Prop :=
  ∀ setAll : Option Word, (encode setAll i).isSome = i.wellFormed setAll

theorem cls : Statement .cls := fun _ => rfl
theorem setAll : Statement .setAll := fun _ => rfl
theorem ret : Statement .ret := fun _ => rfl
theorem jump (nnn : Imm12) : Statement (.jump nnn) := fun _ => rfl
theorem call (nnn : Imm12) : Statement (.call nnn) := fun _ => rfl
theorem skipEq (x : Reg) (nn : Byte) : Statement (.skipEq x nn) := fun _ => rfl
theorem skipNeq (x : Reg) (nn : Byte) : Statement (.skipNeq x nn) := fun _ => rfl
theorem skipEqReg (x y : Reg) : Statement (.skipEqReg x y) := fun _ => rfl
theorem load (x : Reg) (nn : Byte) : Statement (.load x nn) := fun _ => rfl
theorem add (x : Reg) (nn : Byte) : Statement (.add x nn) := fun _ => rfl
theorem mov (x y : Reg) : Statement (.mov x y) := fun _ => rfl
theorem or (x y : Reg) : Statement (.or x y) := fun _ => rfl
theorem and (x y : Reg) : Statement (.and x y) := fun _ => rfl
theorem xor (x y : Reg) : Statement (.xor x y) := fun _ => rfl
theorem addReg (x y : Reg) : Statement (.addReg x y) := fun _ => rfl
theorem sub (x y : Reg) : Statement (.sub x y) := fun _ => rfl
theorem shr (x y : Reg) : Statement (.shr x y) := fun _ => rfl
theorem subn (x y : Reg) : Statement (.subn x y) := fun _ => rfl
theorem shl (x y : Reg) : Statement (.shl x y) := fun _ => rfl
theorem skipNeqReg (x y : Reg) : Statement (.skipNeqReg x y) := fun _ => rfl
theorem loadI (nnn : Imm12) : Statement (.loadI nnn) := fun _ => rfl
theorem jumpOffset (nnn : Imm12) : Statement (.jumpOffset nnn) := fun _ => rfl
theorem rand (x : Reg) (nn : Byte) : Statement (.rand x nn) := fun _ => rfl
theorem draw (x y : Reg) (n : Nibble) : Statement (.draw x y n) := fun _ => rfl
theorem skipKey (x : Reg) : Statement (.skipKey x) := fun _ => rfl
theorem skipNokey (x : Reg) : Statement (.skipNokey x) := fun _ => rfl
theorem loadDelay (x : Reg) : Statement (.loadDelay x) := fun _ => rfl
theorem waitKey (x : Reg) : Statement (.waitKey x) := fun _ => rfl
theorem setDelay (x : Reg) : Statement (.setDelay x) := fun _ => rfl
theorem setSound (x : Reg) : Statement (.setSound x) := fun _ => rfl
theorem addI (x : Reg) : Statement (.addI x) := fun _ => rfl
theorem fontAddr (x : Reg) : Statement (.fontAddr x) := fun _ => rfl
theorem bcd (x : Reg) : Statement (.bcd x) := fun _ => rfl
theorem storeRegs (x : Reg) : Statement (.storeRegs x) := fun _ => rfl
theorem loadRegs (x : Reg) : Statement (.loadRegs x) := fun _ => rfl

end Sys2Proof.Laws.EncodeDefined
end

