-- ==== Sys2Proof/Laws/Step.lean ====
section
/-! SUPPORT. What one step, one slot of a Tick and one fetch can do. -/

namespace Sys2Proof.Machine

/-- Everything a step that answers a next state has done. -/
theorem step_cases {s t : State} (h : step s = .next t) :
    s.cfg.legal = true ∧ s.fault = none ∧
      ((∃ r, s.fetchDecode = .error r ∧ t = s.advanced) ∨
       (∃ i, s.fetchDecode = .ok i ∧ exec i s.advanced = .next t)) := by
  unfold step at h
  split at h
  · next hl =>
    split at h
    · cases h
    · next hf =>
      refine ⟨hl, hf, ?_⟩
      split at h
      · next r hr => exact Or.inl ⟨r, hr, by cases h; rfl⟩
      · next i hi => exact Or.inr ⟨i, hi, h⟩
  · cases h

/-- The word fetched from inside memory (R27, R51). -/
theorem State.fetchWord_inside {s : State} (h : s.ip.toNat + 1 < memSize) :
    s.fetchWord = some (wordOf (s.readByte s.ip.toNat) (s.readByte (s.ip.toNat + 1))) := by
  have h' : s.ip.toNat < memSize := by omega
  simp [State.fetchWord, State.byteAt?, h, h']

/-- No word is fetched past memory (R30). -/
theorem State.fetchWord_outside {s : State} (h : ¬ s.ip.toNat + 1 < memSize) :
    s.fetchWord = none := by
  simp only [State.fetchWord, State.byteAt?, if_neg h]
  split <;> simp_all

/-- An instruction was fetched from inside memory. -/
theorem State.fetchDecode_inside {s : State} {i : Instr} (h : s.fetchDecode = .ok i) :
    s.ip.toNat + 1 < memSize := by
  by_contra hn
  simp [State.fetchDecode, State.fetchWord_outside hn] at h

/-- A fetched word is decoded (R52). -/
theorem State.fetchDecode_word {s : State} {w : Word} {i : Instr} (h : s.fetchWord = some w)
    (hd : decode s.cfg.setAllWord w = .ok i) : s.fetchDecode = .ok i := by
  simp only [State.fetchDecode, h, hd]

/-- One slot of a Tick with no host operation inside it. -/
theorem tickLoop_succ (n : Nat) (s : State) :
    tickLoop (n + 1) [] s =
      match step s with
      | .next t =>
        match stepResult s t with
        | .executed => tickLoop n [] t
        | .halt r => .next (.stopped r, t)
        | .fault k => .next (.error k, t)
      | .fault r => .fault r
      | .refused r => .refused r := rfl

/-- The range check in plain numbers (R31). -/
theorem rangeOk_iff (a : Addr) (n : Nat) :
    rangeOk a n = true ↔ n = 0 ∨ a.toNat + n ≤ 4096 := by
  simp only [rangeOk, Bool.or_eq_true, beq_iff_eq, decide_eq_true_eq]
  exact Iff.rfl

end Sys2Proof.Machine
end

