-- ==== Sys2Proof/Tests/Slice0.lean ====
section
/-! SUPPORT. Tests of one step or one operation each, with results taken from spec/ (mostly the
vectors of 95_test_vectors.md, named by section), and a witness for the hypotheses of each
statement that has some. -/

namespace Sys2Proof.Tests

open Sys2Proof Sys2Proof.Machine

/-- What a next state shows. -/
def seen {α : Type} (a : Answer) (f : State → α) : Option α :=
  match a with
  | .next t => some (f t)
  | _ => none

/-- What a Tick shows. -/
def tickSeen {α : Type} (a : TickAnswer) (f : TickResult × State → α) : Option α :=
  match a with
  | .next p => some (f p)
  | _ => none

/-- The instruction is at 0x0300, so ip = 0x0302 while it executes; I = 0x0300. -/
def base : State := { State.reset with ip := 0x0302, i := 0x0300, started := true }

/-- Registers set one by one. -/
def withRegs (s : State) (rs : List (Reg × Byte)) : State :=
  rs.foldl (fun t p => t.setV p.1 p.2) s

/-- A state whose first bytes at 0x200 are these, about to fetch them. -/
def loaded (bytes : List Byte) : State := State.reset.writeBytes 0x200 bytes

/-- The configuration with SET-ALL at the spec's placeholder word. -/
def withSetAll : Config := { defaultConfig with setAllWord := some 0x00E1 }

/-! ## Well-formedness: each check refuses an ill-formed term -/

theorem test_setAll_ill_formed_without_extension : Instr.wellFormed none .setAll = false := by
  decide

theorem test_setAll_well_formed_with_extension :
    Instr.wellFormed (some 0x00E1) .setAll = true := by decide

theorem test_zero_budget_refused :
    Config.budgetLegal { defaultConfig with tickBudget := 0 } = false := by decide

theorem test_clashing_setAll_word_refused :
    Config.legal { defaultConfig with setAllWord := some 0x00E0 } = false := by decide

theorem test_zero_budget_illegal :
    Config.legal { defaultConfig with tickBudget := 0 } = false := by decide

theorem test_placeholder_legal : withSetAll.legal = true := by decide

theorem test_illegal_config_step_refused :
    step { State.reset with cfg := { defaultConfig with tickBudget := 0 } } =
      .refused .illegalConfig := by rfl

/-! ## Decoding (95 section 2.1; words written out from 30 R44) -/

theorem test_decode_fixed :
    decode none 0x00E0 = .ok .cls ∧ decode none 0x00EE = .ok .ret ∧
    decode (some 0x00E1) 0x00E1 = .ok .setAll ∧
    decode none 0x00E1 = .error (.unrecognized 0x00E1) ∧
    decode none 0x0000 = .error (.unrecognized 0x0000) ∧
    decode none 0x0123 = .error (.unrecognized 0x0123) := by decide

theorem test_decode_immediate :
    decode none 0x1ABC = .ok (.jump 0xABC) ∧ decode none 0x2FFF = .ok (.call 0xFFF) ∧
    decode none 0x3A42 = .ok (.skipEq 0xA 0x42) ∧ decode none 0x4F00 = .ok (.skipNeq 0xF 0x00) ∧
    decode none 0x5AB0 = .ok (.skipEqReg 0xA 0xB) ∧
    decode none 0x5AB1 = .error (.unrecognized 0x5AB1) ∧
    decode none 0x6C7F = .ok (.load 0xC 0x7F) ∧ decode none 0x7001 = .ok (.add 0 0x01) := by decide

theorem test_decode_alu :
    decode none 0x8AB0 = .ok (.mov 0xA 0xB) ∧ decode none 0x8AB1 = .ok (.or 0xA 0xB) ∧
    decode none 0x8AB2 = .ok (.and 0xA 0xB) ∧ decode none 0x8AB3 = .ok (.xor 0xA 0xB) ∧
    decode none 0x8AB4 = .ok (.addReg 0xA 0xB) ∧ decode none 0x8AB5 = .ok (.sub 0xA 0xB) ∧
    decode none 0x8AB6 = .ok (.shr 0xA 0xB) ∧ decode none 0x8AB7 = .ok (.subn 0xA 0xB) ∧
    decode none 0x8ABE = .ok (.shl 0xA 0xB) ∧
    decode none 0x8AB8 = .error (.unrecognized 0x8AB8) ∧
    decode none 0x8ABF = .error (.unrecognized 0x8ABF) := by decide

theorem test_decode_upper :
    decode none 0x9AB0 = .ok (.skipNeqReg 0xA 0xB) ∧
    decode none 0x9AB5 = .error (.unrecognized 0x9AB5) ∧
    decode none 0xA123 = .ok (.loadI 0x123) ∧ decode none 0xB200 = .ok (.jumpOffset 0x200) ∧
    decode none 0xC5F0 = .ok (.rand 5 0xF0) ∧ decode none 0xD01F = .ok (.draw 0 1 15) ∧
    decode none 0xD120 = .ok (.draw 1 2 0) := by decide

theorem test_decode_low_byte :
    decode none 0xE19E = .ok (.skipKey 1) ∧ decode none 0xE1A1 = .ok (.skipNokey 1) ∧
    decode none 0xE19F = .error (.unrecognized 0xE19F) ∧
    decode none 0xF107 = .ok (.loadDelay 1) ∧ decode none 0xF10A = .ok (.waitKey 1) ∧
    decode none 0xF115 = .ok (.setDelay 1) ∧ decode none 0xF118 = .ok (.setSound 1) ∧
    decode none 0xF11E = .ok (.addI 1) ∧ decode none 0xF129 = .ok (.fontAddr 1) ∧
    decode none 0xF133 = .ok (.bcd 1) ∧ decode none 0xF155 = .ok (.storeRegs 1) ∧
    decode none 0xF165 = .ok (.loadRegs 1) ∧
    decode none 0xF185 = .error (.unrecognized 0xF185) := by decide

/-- R27: the high byte first. -/
theorem test_decode_bytes_big_endian :
    decodeBytes none [0xD0, 0x11, 0x77] = .ok (.draw 0 1 1, [0x77]) ∧
    decodeBytes none [0xD0] = .error .truncated := by decide

/-- R44's patterns, from the encoder. -/
theorem test_encode_examples :
    encode none (.draw 0 1 1) = some 0xD011 ∧ encode none (.bcd 2) = some 0xF233 ∧
    encode none (.jump 0x208) = some 0x1208 ∧ encode none .setAll = none := by decide

theorem test_table_word_setAll : decodeTableWord 16 0x00E1 = some .setAll := by decide

theorem test_table_word_draw : decodeTableWord 16 0xD011 = some (.draw 0 1 1) := by decide

/-! ## ALU (95 section 2.2) -/

theorem test_load_vf :
    seen (exec (.load 15 0xAB) (withRegs base [(15, 0x01)])) (fun t => t.getV 15) = some 0xAB := by
  decide

theorem test_add_wraps_without_flag :
    seen (exec (.add 1 0x01) (withRegs base [(1, 0xFF)])) (fun t => (t.getV 1, t.getV 15)) =
      some (0x00, 0x00) := by decide

theorem test_mov :
    seen (exec (.mov 1 2) (withRegs base [(2, 0x7E)])) (fun t => (t.getV 1, t.getV 2)) =
      some (0x7E, 0x7E) := by decide

theorem test_or_keeps_vf :
    seen (exec (.or 1 2) (withRegs base [(1, 0xF0), (2, 0x0F), (15, 0x01)]))
      (fun t => (t.getV 1, t.getV 15)) = some (0xFF, 0x01) := by decide

theorem test_and :
    seen (exec (.and 1 2) (withRegs base [(1, 0xF0), (2, 0x3C)])) (fun t => t.getV 1) =
      some 0x30 := by decide

theorem test_xor :
    seen (exec (.xor 1 2) (withRegs base [(1, 0xF0), (2, 0x3C)])) (fun t => t.getV 1) =
      some 0xCC := by decide

theorem test_addReg_carry :
    seen (exec (.addReg 0 1) (withRegs base [(0, 0xFF), (1, 0x01)]))
      (fun t => (t.getV 0, t.getV 15)) = some (0x00, 0x01) := by decide

theorem test_addReg_into_vf :
    seen (exec (.addReg 15 0) (withRegs base [(15, 0x10), (0, 0xF5)])) (fun t => t.getV 15) =
      some 0x01 := by decide

theorem test_sub_borrow :
    seen (exec (.sub 0 1) (withRegs base [(0, 0x05), (1, 0x07)]))
      (fun t => (t.getV 0, t.getV 15)) = some (0xFE, 0x00) := by decide

theorem test_sub_equal_does_not_borrow :
    seen (exec (.sub 3 3) (withRegs base [(3, 0x9C)])) (fun t => (t.getV 3, t.getV 15)) =
      some (0x00, 0x01) := by decide

theorem test_subn_no_borrow :
    seen (exec (.subn 0 1) (withRegs base [(0, 0x05), (1, 0x07)]))
      (fun t => (t.getV 0, t.getV 15)) = some (0x02, 0x01) := by decide

theorem test_subn_borrow :
    seen (exec (.subn 0 1) (withRegs base [(0, 0x07), (1, 0x05)]))
      (fun t => (t.getV 0, t.getV 15)) = some (0xFE, 0x00) := by decide

theorem test_shr_uses_vy :
    seen (exec (.shr 0 1) (withRegs base [(0, 0xAA), (1, 0x05)]))
      (fun t => (t.getV 0, t.getV 1, t.getV 15)) = some (0x02, 0x05, 0x01) := by decide

theorem test_shr_into_vf :
    seen (exec (.shr 15 1) (withRegs base [(1, 0x02)])) (fun t => t.getV 15) = some 0x00 := by
  decide

theorem test_shl_uses_vy :
    seen (exec (.shl 0 1) (withRegs base [(0, 0xAA), (1, 0x81)]))
      (fun t => (t.getV 0, t.getV 1, t.getV 15)) = some (0x02, 0x81, 0x01) := by decide

theorem test_shl_low_bit_clear :
    seen (exec (.shl 0 1) (withRegs base [(1, 0x7F)])) (fun t => (t.getV 0, t.getV 15)) =
      some (0xFE, 0x00) := by decide

/-- 43 R85: "NN = 0x00 always gives 0x00", whatever is drawn; a draw is counted. -/
theorem test_rand_masked_to_zero :
    seen (exec (.rand 0 0x00) (withRegs base [(0, 0x55)])) (fun t => (t.getV 0, t.draws)) =
      some (0x00, 1) := by
  simp only [exec, execRand, seen, State.setV_getV_same, State.setV_draws,
    BitVec.ofNat_eq_ofNat, BitVec.and_zero]
  rfl

/-! ## Control flow (95 section 2.3) -/

theorem test_jump_odd : seen (exec (.jump 0x301) base) (fun t => t.ip) = some 0x0301 := by decide

theorem test_call_at_fifteen :
    seen (exec (.call 0x400) { base with sp := 15 }) (fun t => (t.stack[15], t.sp, t.ip)) =
      some (0x0302, 16, 0x0400) := by decide

theorem test_call_overflow :
    seen (exec (.call 0x400) { base with sp := 16 }) (fun t => (t.sp, t.ip, t.fault)) =
      some (16, 0x0302, some .stackOverflow) := by decide

theorem test_ret :
    seen (exec .ret { base with sp := 1, stack := base.stack.set 0 0x0206 })
      (fun t => (t.ip, t.sp)) = some (0x0206, 0) := by decide

theorem test_ret_underflow :
    seen (exec .ret base) (fun t => (t.sp, t.ip, t.fault)) =
      some (0, 0x0302, some .stackUnderflow) := by decide

theorem test_skipEq :
    seen (exec (.skipEq 0 0x00) base) (fun t => t.ip) = some 0x0304 ∧
    seen (exec (.skipEq 0 0x00) (withRegs base [(0, 0x01)])) (fun t => t.ip) = some 0x0302 := by
  decide

theorem test_skipNeq :
    seen (exec (.skipNeq 1 0x05) (withRegs base [(1, 0x04)])) (fun t => t.ip) = some 0x0304 ∧
    seen (exec (.skipNeq 1 0x05) (withRegs base [(1, 0x05)])) (fun t => t.ip) = some 0x0302 := by
  decide

theorem test_skipEqReg :
    seen (exec (.skipEqReg 1 2) (withRegs base [(1, 7), (2, 7)])) (fun t => t.ip) = some 0x0304 ∧
    seen (exec (.skipEqReg 1 2) (withRegs base [(1, 7), (2, 8)])) (fun t => t.ip) =
      some 0x0302 := by decide

theorem test_skipNeqReg :
    seen (exec (.skipNeqReg 1 2) (withRegs base [(1, 7), (2, 8)])) (fun t => t.ip) =
      some 0x0304 ∧
    seen (exec (.skipNeqReg 3 3) (withRegs base [(3, 9)])) (fun t => t.ip) = some 0x0302 := by
  decide

theorem test_jumpOffset_uses_v0 :
    seen (exec (.jumpOffset 0x300) (withRegs base [(0, 0x01), (3, 0x80)])) (fun t => t.ip) =
      some 0x0301 ∧
    seen (exec (.jumpOffset 0xFFF) (withRegs base [(0, 0xFF)])) (fun t => t.ip) =
      some 0x10FE := by decide

/-! ## Display (95 section 2.4) -/

theorem test_cls : seen (exec .cls { base with disp := dispSetAll })
    (fun t => dispGet t.disp 31 63) = some false := by decide

theorem test_setAll : seen (exec .setAll base) (fun t => (dispGet t.disp 31 63, t.getV 15)) =
    some (true, 0) := by decide

/-- Both axes wrap: bytes F0 81 at column 62, row 31. -/
theorem test_draw_wraps :
    seen (exec (.draw 0 1 2)
        (withRegs (base.writeBytes 0x300 [0xF0, 0x81]) [(0, 0x3E), (1, 0x1F)]))
      (fun t => (t.disp[31], t.disp[0], t.disp[1], t.getV 15)) =
      some (0xC000000000000003, 0x4000000000000020, 0, 0) := by decide +kernel

/-- A set point under a set sprite bit: it clears, and VF = 1. -/
theorem test_draw_collides :
    seen (exec (.draw 0 1 1)
        { base.writeBytes 0x300 [0xC0] with disp := dispSet dispClear 0 0 true })
      (fun t => (dispGet t.disp 0 0, dispGet t.disp 0 1, t.getV 15)) =
      some (false, true, 1) := by decide +kernel

/-! ## Address register and memory (95 section 2.5) -/

theorem test_loadI : seen (exec (.loadI 0x300) { base with i := 0 }) (fun t => t.i) =
    some 0x0300 := by decide

theorem test_addI_keeps_sixteen_bits :
    seen (exec (.addI 1) (withRegs { base with i := 0x0FFF } [(1, 0x01)]))
      (fun t => (t.i, t.getV 15)) = some (0x1000, 0x00) ∧
    seen (exec (.addI 1) (withRegs { base with i := 0xFFFF } [(1, 0x02)])) (fun t => t.i) =
      some 0x0001 := by decide

theorem test_fontAddr_low_nibble :
    seen (exec (.fontAddr 0) (withRegs base [(0, 0x1F)])) (fun t => t.i) = some 0x009B := by decide

theorem test_bcd_255 :
    seen (exec (.bcd 2) (withRegs { base with i := 0x0FFD } [(2, 0xFF)]))
      (fun t => (t.readByte 0xFFD, t.readByte 0xFFE, t.readByte 0xFFF, t.i)) =
      some (2, 5, 5, 0x0FFD) := by decide

theorem test_bcd_out_of_range :
    seen (exec (.bcd 2) (withRegs { base with i := 0x0FFE } [(2, 0xFF)]))
      (fun t => (t.fault, t.mem)) = some (some .memOutOfRange, []) := by decide

theorem test_storeRegs :
    seen (exec (.storeRegs 2) (withRegs base [(0, 1), (1, 2), (2, 3), (3, 4)]))
      (fun t => (t.mem, t.i)) = some ([(0x300, 1), (0x301, 2), (0x302, 3)], 0x0300) := by decide

theorem test_storeRegs_out_of_range :
    seen (exec (.storeRegs 15) { base with i := 0x0FF1 }) (fun t => (t.fault, t.mem)) =
      some (some .memOutOfRange, []) := by decide

theorem test_loadRegs :
    seen (exec (.loadRegs 2) (withRegs (base.writeBytes 0x300 [2, 5, 5]) [(3, 0x99)]))
      (fun t => (t.getV 0, t.getV 1, t.getV 2, t.getV 3, t.i)) =
      some (2, 5, 5, 0x99, 0x0300) := by decide

/-- The default font's glyph 0 (20 R26). -/
theorem test_loadRegs_from_font :
    seen (exec (.loadRegs 4) { base with i := 0x050 })
      (fun t => (t.getV 0, t.getV 1, t.getV 2, t.getV 3, t.getV 4)) =
      some (0xF0, 0x90, 0x90, 0x90, 0xF0) := by decide +kernel

/-! ## Keyboard and timers (95 section 2.6) -/

theorem test_skipKey_low_nibble :
    seen (exec (.skipKey 0) (withRegs (base.setKey 7 true) [(0, 0x17)])) (fun t => t.ip) =
      some 0x0304 ∧
    seen (exec (.skipKey 0) (withRegs base [(0, 0x07)])) (fun t => t.ip) = some 0x0302 := by decide

theorem test_skipNokey :
    seen (exec (.skipNokey 0) (withRegs base [(0, 0x07)])) (fun t => t.ip) = some 0x0304 ∧
    seen (exec (.skipNokey 0) (withRegs (base.setKey 7 true) [(0, 0x07)])) (fun t => t.ip) =
      some 0x0302 := by decide

theorem test_loadDelay :
    seen (exec (.loadDelay 1) { base with dt := 0x2A }) (fun t => (t.getV 1, t.dt)) =
      some (0x2A, 0x2A) := by decide

theorem test_waitKey_latched :
    seen (exec (.waitKey 0) { base with released := some 7 })
      (fun t => (t.getV 0, t.ip, t.released)) = some (0x07, 0x0302, some 7) := by decide

theorem test_waitKey_held_key_does_not_end_it :
    seen (exec (.waitKey 0) (base.setKey 3 true)) (fun t => t.ip) = some 0x0300 := by decide

theorem test_setDelay :
    seen (exec (.setDelay 0) (withRegs base [(0, 0x3C)])) (fun t => (t.dt, t.st)) =
      some (0x3C, 0x00) := by decide

theorem test_setSound :
    seen (exec (.setSound 0) (withRegs base [(0, 0x05)])) (fun t => (t.dt, t.st)) =
      some (0x00, 0x05) := by decide

theorem test_timerPulse_saturates_each_alone :
    (({ base with dt := 2 } : State).timerPulse.dt, ({ base with dt := 2 } : State).timerPulse.st) =
      (1, 0) := by decide

theorem test_press_clears_latch :
    ((({ base with released := some 7 } : State).press 2).released,
      (({ base with released := some 7 } : State).press 2).keyDown 2) = (none, true) := by decide

theorem test_release_replaces_latch :
    (({ base with released := some 7 } : State).release 4).released = some 4 := by decide

/-! ## Step, tick, halts (95 section 2.7) -/

theorem test_step_at_last_word :
    seen (step { State.reset.writeBytes 0xFFE [0x60, 0x01] with ip := 0x0FFE })
      (fun t => (t.getV 0, t.ip)) = some (1, 0x1000) := by decide

theorem test_step_half_a_word_halts :
    seen (step { State.reset with ip := 0x0FFF }) (fun t => (t.ip, t.fault)) =
      some (0x1001, none) := by decide

theorem test_step_ip_wraps :
    seen (step { State.reset with ip := 0xFFFE }) (fun t => t.ip) = some 0x0000 := by decide

theorem test_tick_on_empty_memory :
    tickSeen (tick State.reset) (fun p => (p.1, p.2.ip)) =
      some (.stopped .unrecognized, 0x0202) := by decide

theorem test_tick_underflow :
    tickSeen (tick (loaded [0x00, 0xEE])) (fun p => (p.1, p.2.ip, p.2.fault)) =
      some (.error .stackUnderflow, 0x0202, some .stackUnderflow) := by decide

theorem test_load_too_long_refused :
    State.reset.hostLoad (List.replicate 3585 0) = .refused .loadTooLong := by
  simp only [State.hostLoad, List.length_replicate]
  rfl

theorem test_fetch_word_setAll_runs :
    seen (step (State.reset.withFetchWord 16 0x00E1)) (fun t => (dispGet t.disp 0 0, t.ip)) =
      some (true, 0x0202) := by decide

/-! ## Witnesses: states and operands that meet the statements' hypotheses -/

/-- A machine with SET-ALL, for the statements over legal configurations. -/
theorem witness_legal_config :
    withSetAll.legal = true ∧ Instr.wellFormed withSetAll.setAllWord .setAll = true ∧
    Instr.wellFormed withSetAll.setAllWord (.draw 15 0 15) = true ∧
    withSetAll.setAllWord = some 0x00E1 := by decide

/-- RecognizedWordIsItsEncoding: the first and the last recognized word. -/
theorem witness_recognized :
    decode none 0x00E0 = .ok .cls ∧ decode none 0xFF65 = .ok (.loadRegs 15) := by decide

/-- UnrecognizedWordsAreExactlyListed: one word of each class, and SET-ALL's own word. -/
theorem witness_unrecognized_classes :
    decode none 0x0FFF = .error (.unrecognized 0x0FFF) ∧
    decode none 0x5FFF = .error (.unrecognized 0x5FFF) ∧
    decode none 0x8AB8 = .error (.unrecognized 0x8AB8) ∧
    decode none 0x9001 = .error (.unrecognized 0x9001) ∧
    decode none 0xE09F = .error (.unrecognized 0xE09F) ∧
    decode none 0xFFFF = .error (.unrecognized 0xFFFF) ∧
    decode (some 0xFFFF) 0xFFFF = .ok .setAll := by decide

/-- StepRunsDecodedInstruction, at the last word of memory. -/
theorem witness_step_runs :
    let s : State := { State.reset.writeBytes 0xFFE [0x60, 0x01] with ip := 0x0FFE }
    s.Running ∧ s.ip.toNat + 1 < 4096 ∧
    decode s.cfg.setAllWord (s.readByte s.ip.toNat ++ s.readByte (s.ip.toNat + 1)) =
      .ok (.load 0 0x01) := by decide

/-- FetchPastMemoryHalts, at its least ip. -/
theorem witness_fetch_past :
    let s : State := { State.reset with ip := 0x0FFF }
    s.Running ∧ 4094 < s.ip.toNat := by decide

/-- UnrecognizedWordHalts. -/
theorem witness_unrecognized_halts :
    State.reset.Running ∧ State.reset.ip.toNat + 1 < 4096 ∧
    (0x0000 : Word) = State.reset.readByte 0x200 ++ State.reset.readByte 0x201 ∧
    decode State.reset.cfg.setAllWord 0x0000 = .error (.unrecognized 0x0000) := by decide

/-- FaultedCoreDoesNotRun. -/
theorem witness_faulted :
    let s : State := { State.reset with fault := some .stackOverflow }
    s.cfg.legal = true ∧ s.fault = some .stackOverflow := by decide

/-- TickCutsAnywhere: a burst that exhausts its slots, one that halts, one that faults. -/
theorem witness_tick_cuts :
    tickSeen (tickLoop 1 [] (loaded [0x12, 0x00])) (fun p => p.1) = some .budgetExhausted ∧
    tickSeen (tickLoop 1 [] State.reset) (fun p => p.1) = some (.stopped .unrecognized) ∧
    tickSeen (tickLoop 1 [] (loaded [0x00, 0xEE])) (fun p => p.1) =
      some (.error .stackUnderflow) := by decide

/-- ExhaustedTickRunsItsBudget. -/
theorem witness_exhausted_tick :
    tickSeen (tick (loaded [0x12, 0x00])) (fun p => p.1) = some .budgetExhausted := by decide

/-- FaultsArePrecise: each kind, by each instruction that raises it. -/
theorem witness_faults :
    base.fault = none ∧
    seen (exec (.call 0x400) { base with sp := 16 }) State.fault = some (some .stackOverflow) ∧
    seen (exec .ret base) State.fault = some (some .stackUnderflow) ∧
    seen (exec (.draw 0 1 2) { base with i := 0x0FFF }) State.fault =
      some (some .memOutOfRange) ∧
    seen (exec (.bcd 0) { base with i := 0x0FFE }) State.fault = some (some .memOutOfRange) ∧
    seen (exec (.storeRegs 1) { base with i := 0x0FFF }) State.fault =
      some (some .memOutOfRange) ∧
    seen (exec (.loadRegs 1) { base with i := 0x0FFF }) State.fault =
      some (some .memOutOfRange) := by decide

/-- FaultingStepLeavesItsAddress. -/
theorem witness_faulting_step :
    (loaded [0x00, 0xEE]).Running ∧
    seen (step (loaded [0x00, 0xEE])) State.fault = some (some .stackUnderflow) := by decide

/-- DrawXorsSprite and DrawTwiceErases: N = 0 with any I, and the last readable byte. -/
theorem witness_draw_in_range :
    drawInRange { base with i := 0xFFFF } 0 ∧ drawInRange { base with i := 0x0FFF } 1 ∧
    (0 : Reg) ≠ 15 ∧ (1 : Reg) ≠ 15 := by decide

/-- DrawTwiceErases: a cleared display, and a sprite bit that is set on it. -/
theorem witness_sprite_bit :
    (∀ r c, dispGet base.disp r c = false) ∧
    (base.writeBytes 0x300 [0x80]).spriteBit 0 1 1 0 0 = true := by decide +kernel

/-- OutOfRangeAccessFaults: the least I that faults, for each of the four. -/
theorem witness_out_of_range :
    ((2 : Nibble).toNat ≠ 0 ∧ 4096 ≤ ({ base with i := 0x0FFF } : State).i.toNat +
      (2 : Nibble).toNat - 1) ∧
    4096 ≤ ({ base with i := 0x0FFE } : State).i.toNat + 2 ∧
    4096 ≤ ({ base with i := 0x0FF1 } : State).i.toNat + (15 : Reg).toNat := by decide

/-- CallPushesReturnAddress, CallThenRetRestores, RetPopsReturnAddress, StackBoundsFault, at the
ends of sp's range. -/
theorem witness_stack_bounds :
    ({ base with sp := 15 } : State).sp.val ≠ 16 ∧ ({ base with sp := 16 } : State).sp.val ≠ 0 ∧
    (15 : Fin 16).val + 1 = ({ base with sp := 16 } : State).sp.val ∧
    ({ base with sp := 16 } : State).sp.val = 16 ∧ base.sp.val = 0 := by decide

/-- AddRegSumAndCarry and the other flag statements: a destination that is not VF. -/
theorem witness_destination : (0 : Reg) ≠ 15 ∧ (1 : Reg) ≠ 0 ∧ (1 : Reg) ≠ 15 := by decide

/-- BcdStoresDigits, StoreRegsWritesBlock, LoadRegsReadsBlock: the last bytes of memory. -/
theorem witness_in_range :
    ({ base with i := 0x0FFD } : State).i.toNat + 2 < 4096 ∧
    ({ base with i := 0x0FF0 } : State).i.toNat + (15 : Reg).toNat < 4096 := by decide

/-- StoredWordIsFetchedNext: STORE-REGS over both bytes of the next word, over its low byte alone
(I at ip + 1) and over its high byte alone (X = 0), and BCD ending on its high byte, with words that
decode. -/
theorem witness_stored_word :
    base.ip.toNat + 1 < 4096 ∧
    ({ base with i := 0x0FFF } : State).i.toNat + (0 : Reg).toNat < 4096 ∧
    ({ base with i := 0x0FFD } : State).i.toNat + 2 < 4096 ∧
    seen (exec (.storeRegs 1) (withRegs { base with i := 0x0302 } [(0, 0x61), (1, 0x23)]))
      State.fetchWord = some (some 0x6123) ∧
    seen (exec (.storeRegs 0) (withRegs { base with i := 0x0303 } [(0, 0xE0)]))
      State.fetchWord = some (some 0x00E0) ∧
    seen (exec (.storeRegs 0) (withRegs { base with i := 0x0302 } [(0, 0x61)]))
      State.fetchWord = some (some 0x6100) ∧
    seen (exec (.bcd 0) (withRegs base [(0, 0xFE)])) State.fetchWord = some (some 0x0400) ∧
    decode base.cfg.setAllWord 0x6123 = .ok (.load 1 0x23) ∧
    decode base.cfg.setAllWord 0x00E0 = .ok .cls := by decide

/-- SkipOnKeyLevel: key 7 from a register whose high nibble is set. -/
theorem witness_key_operand :
    (7 : Fin 16).val = ((withRegs base [(0, 0x17)]).getV 0).toNat % 16 := by decide

/-- WaitKeyCompletesOrRetries: a latched key, and a step that retries. -/
theorem witness_wait_key :
    ({ base with released := some 7 } : State).released = some 7 ∧
    (loaded [0xF0, 0x0A]).released = none ∧ (loaded [0xF0, 0x0A]).Running ∧
    (loaded [0xF0, 0x0A]).fetchDecode = .ok (.waitKey 0) := by decide

/-- LoadWritesImage: an admitted image, a Load after a Tick; the first clause's longest image and
the second clause's shortest. -/
theorem witness_load :
    State.reset.started = false ∧ base.started = true ∧
    (List.replicate 3584 (0 : Byte)).length ≤ 3584 ∧
    3584 < (List.replicate 3585 (0 : Byte)).length := by
  simp only [List.length_replicate]
  decide

/-- StepKeepsInv and ExecutedIpIsBounded, on a step that calls. -/
theorem witness_inv_step :
    (loaded [0x22, 0x0E]).Inv ∧ (loaded [0x22, 0x0E]).fetchDecode = .ok (.call 0x20E) ∧
    seen (step (loaded [0x22, 0x0E])) (fun t => (t.ip, t.sp)) = some (0x020E, 1) := by
  decide +kernel

/-- HistoryKeepsInv, on a history of every kind of event. -/
theorem witness_history :
    State.reset.Inv ∧
    seen (State.reset.history
        [.load [0xF0, 0x0A], .tick [[.press 7]], .op (.release 7), .op .timerPulse, .tick []])
      (fun t => (t.getV 0, t.ip)) = some (7, 0x0202) := by decide +kernel

/-- OnlyStoresAlterMemory, VfHasItsWriters, SoundTimerIsUnobservable: an
instruction that meets every condition on its constructor, and a flag writer. -/
theorem witness_writers :
    seen (exec (.load 0 0x12) base) (fun t => t.getV 0) = some 0x12 ∧
    Instr.writesFlag (.load 0 0x12) = false ∧ Instr.destinationIsVF (.load 0 0x12) = false ∧
    (∀ x, (.load 0 0x12 : Instr) ≠ .bcd x) ∧ (∀ x, (.load 0 0x12 : Instr) ≠ .storeRegs x) ∧
    (∀ x, (.load 0 0x12 : Instr) ≠ .setSound x) ∧ (∀ x, (.load 0 0x12 : Instr) ≠ .setDelay x) ∧
    (.load 0 0x12 : Instr) ≠ .cls ∧ (.load 0 0x12 : Instr) ≠ .ret ∧
    Instr.writesFlag (.sub 0 1) = true ∧ base.fault = none ∧
    seen (exec (.sub 0 1) base) State.fault = some none := by decide

/-- EachPieceHasItsWriters: instructions that meet each clause's conditions, a register that is and
one that is not among LOAD-REGS's destinations, and a latch that is set. -/
theorem witness_piece_writers :
    seen (exec (.loadRegs 1) base) State.fault = some none ∧
    Instr.hasDestination 1 (.loadRegs 1) = true ∧ Instr.hasDestination 2 (.loadRegs 1) = false ∧
    Instr.hasDestination 14 (.draw 14 0 1) = false ∧ (14 : Reg) ≠ 15 ∧
    Instr.assignsIp (.cls) = false ∧ Instr.isSkip (.cls) = false ∧
    (∀ x, Instr.cls ≠ .waitKey x) ∧ Instr.canFault (.cls) = false ∧
    (∀ x nn, Instr.cls ≠ .rand x nn) ∧ (∀ nnn, Instr.cls ≠ .loadI nnn) ∧
    Instr.isSkip (.skipNokey 0) = true ∧
    seen (exec (.skipNokey 0) base) (fun t => t.ip) = some 0x0304 ∧
    seen (exec (.waitKey 0) base) (fun t => t.ip) = some 0x0300 ∧
    seen (exec .cls { base with fault := some .stackOverflow }) State.fault =
      some (some .stackOverflow) := by decide

/-- StaleSlotsAreUnobservable: two stacks that agree below sp and differ above it. -/
theorem witness_stale_slots :
    let s : State := { base with sp := 1, stack := base.stack.set 0 0x0206 }
    let other := s.stack.set 1 0x0FFF
    (∀ k : Fin 16, k.val < s.sp.val → other[k] = s.stack[k]) ∧ other ≠ s.stack ∧
    seen (exec .ret s) (fun t => t.ip) = some 0x0206 := by decide

end Sys2Proof.Tests
end

section
/-! PROOFS, the scope of the machine (00_scope.md R7): every instruction answers a next state, so a
step on a legal configuration stops nowhere but on a set fault latch (40_cycle.md R56). -/

namespace Sys2Proof.Machine

/-! ## Every instruction's meaning answers a next state (R53, R98) -/

/-- A fault raised by an instruction is a next state (R106). -/
theorem raiseFault_exists_next (k : FaultKind) (s : State) : ∃ t, raiseFault k s = .next t :=
  ⟨_, rfl⟩

/-- A guarded meaning answers a next state where both its branches do. -/
theorem ite_exists_next {p : Prop} [Decidable p] {a b : Answer} (ha : ∃ t, a = .next t)
    (hb : ∃ t, b = .next t) : ∃ t, (if p then a else b) = .next t := by
  split
  · exact ha
  · exact hb

theorem execRet_exists_next (s : State) : ∃ t, execRet s = .next t :=
  ite_exists_next (raiseFault_exists_next .stackUnderflow s) ⟨_, rfl⟩

theorem execCall_exists_next (nnn : Imm12) (s : State) : ∃ t, execCall nnn s = .next t :=
  ite_exists_next (raiseFault_exists_next .stackOverflow s) ⟨_, rfl⟩

theorem execDraw_exists_next (x y : Reg) (n : Nibble) (s : State) :
    ∃ t, execDraw x y n s = .next t :=
  ite_exists_next ⟨_, rfl⟩ (raiseFault_exists_next .memOutOfRange s)

theorem execBcd_exists_next (x : Reg) (s : State) : ∃ t, execBcd x s = .next t :=
  ite_exists_next ⟨_, rfl⟩ (raiseFault_exists_next .memOutOfRange s)

theorem execStoreRegs_exists_next (x : Reg) (s : State) : ∃ t, execStoreRegs x s = .next t :=
  ite_exists_next ⟨_, rfl⟩ (raiseFault_exists_next .memOutOfRange s)

theorem execLoadRegs_exists_next (x : Reg) (s : State) : ∃ t, execLoadRegs x s = .next t :=
  ite_exists_next ⟨_, rfl⟩ (raiseFault_exists_next .memOutOfRange s)

/-- WAIT-KEY answers a next state with a key latched and without one (R95). -/
theorem execWaitKey_exists_next (x : Reg) (s : State) : ∃ t, execWaitKey x s = .next t := by
  unfold execWaitKey
  cases s.released with
  | none => exact ⟨_, rfl⟩
  | some k => exact ⟨_, rfl⟩

/-- The instructions with a guard or a case of their own are named; each other one has a single
next state. -/
theorem exec_exists_next (i : Instr) (s : State) : ∃ t, exec i s = .next t := by
  cases i with
  | ret => exact execRet_exists_next s
  | call nnn => exact execCall_exists_next nnn s
  | draw x y n => exact execDraw_exists_next x y n s
  | waitKey x => exact execWaitKey_exists_next x s
  | bcd x => exact execBcd_exists_next x s
  | storeRegs x => exact execStoreRegs_exists_next x s
  | loadRegs x => exact execLoadRegs_exists_next x s
  | _ => exact ⟨_, rfl⟩

/-! ## The step on a legal configuration, by the fault latch (R50, R56) -/

/-- R56 (decision D7): a core whose latch is set stops with the latched kind. -/
theorem step_of_latched {s : State} {k : FaultKind} (hl : s.cfg.legal = true)
    (hk : s.fault = some k) : step s = .fault (.latched k) := by
  simp only [step, hl, hk, if_true]

/-- A core whose latch is clear goes on: a halt advances ip (R99, R100), and a decoded instruction
answers a next state of its own. -/
theorem step_exists_next {s : State} (hl : s.cfg.legal = true) (hf : s.fault = none) :
    ∃ t, step s = .next t := by
  simp only [step, hl, hf, if_true]
  cases s.fetchDecode with
  | error r => exact ⟨s.advanced, rfl⟩
  | ok i => exact exec_exists_next i s.advanced

/-- Settles O13, by the two states of the fault latch. -/
theorem stepStopsOnlyWhenLatched : Obligations.StepStopsOnlyWhenLatched := by
  unfold Obligations.StepStopsOnlyWhenLatched
  intro s hl
  cases hf : s.fault with
  | none =>
    obtain ⟨t, ht⟩ := step_exists_next hl hf
    simp [ht]
  | some k =>
    simp [step_of_latched hl hf, eq_comm]

end Sys2Proof.Machine
end

section
/-! PROOFS, the machine's state (10_state.md): what one instruction can change (R8 to R19), what no
instruction reads (R12, R14), how far ip goes (R11), and the invariant at reset (R22). -/

namespace Sys2Proof.Machine

/-! ## What an instruction does, by the kind of its change -/

/-- Everything an instruction can do, by the piece of state it changes: `Effect s i t` says that `i`
may take `s` to `t`. `exec_effect` ties it to `exec`. -/
inductive Effect (s : State) : Instr → State → Prop where
  /-- One ordinary destination is written (R74 to R79, R94, R95). -/
  | register {i : Instr} (x : Reg) (b : Byte) (hd : Instr.hasDestination x i = true) :
      Effect s i (s.setV x b)
  /-- A result, then the flag over it (R73). -/
  | resultFlag {i : Instr} (x : Reg) (r f : Byte) (hd : Instr.hasDestination x i = true)
      (hf : Instr.writesFlag i = true) : Effect s i (s.setResultFlag x r f)
  /-- A free byte is drawn (R85, R114). -/
  | random (x : Reg) (nn b : Byte) :
      Effect s (.rand x nn) ({ s with draws := s.draws + 1 }.setV x b)
  /-- A block of registers is loaded (R91). -/
  | loaded (x : Reg) :
      Effect s (.loadRegs x) { s with v := (s.loadFirst (x.toNat + 1)).v }
  /-- Bytes are stored from I up (R89, R90). -/
  | stored {i : Instr} (bs : List Byte) (hi : (∃ x, i = .bcd x) ∨ ∃ x, i = .storeRegs x) :
      Effect s i { s with mem := (s.writeBytes s.i.toNat bs).mem }
  /-- I is assigned (R86 to R88). -/
  | address {i : Instr} (a : Addr)
      (hi : (∃ nnn, i = .loadI nnn) ∨ (∃ x, i = .addI x) ∨ ∃ x, i = .fontAddr x) :
      Effect s i (s.setI a)
  /-- The next instruction is skipped or not (R66 to R69, R92, R93). -/
  | skip {i : Instr} (c : Bool) (hi : Instr.isSkip i = true) :
      Effect s i { s with ip := if c then s.ip + 2 else s.ip }
  /-- R64. -/
  | jump (nnn : Imm12) : Effect s (.jump nnn) (s.setIp (addrOf nnn))
  /-- R70. -/
  | jumpOffset (nnn : Imm12) :
      Effect s (.jumpOffset nnn) (s.setIp (addrOf nnn + (s.getV regV0).setWidth 16))
  /-- R65, on a stack that is not full. -/
  | call (nnn : Imm12) (hsp : s.sp.val ≠ 16) :
      Effect s (.call nnn) ((s.push s.ip).setIp (addrOf nnn))
  /-- R63, with a return address held. -/
  | ret (hsp : s.sp.val ≠ 0) : Effect s .ret (s.dropTop.setIp s.top)
  /-- No key is latched: back to this instruction's own address (R95). -/
  | retry (x : Reg) : Effect s (.waitKey x) (s.setIp (s.ip - 2))
  /-- R96. -/
  | delay (x : Reg) : Effect s (.setDelay x) { s with dt := s.getV x }
  /-- R97. -/
  | sound (x : Reg) : Effect s (.setSound x) { s with st := s.getV x }
  /-- The whole display is cleared or set (R58, R59). -/
  | screen {i : Instr} (d : Display) (hi : i = .cls ∨ i = .setAll) : Effect s i { s with disp := d }
  /-- The sprite, then the collision in VF (R60). -/
  | sprite (x y : Reg) (n : Nibble) (d : Display) (f : Byte) :
      Effect s (.draw x y n) ({ s with disp := d }.setV regVF f)
  /-- Only the latch is set (R106). -/
  | fault {i : Instr} (k : FaultKind) (hi : Instr.canFault i = true) :
      Effect s i { s with fault := some k }

variable {i : Instr} {s t u : State}

/-- A meaning with one answer has the effect of that answer. -/
theorem Effect.of_next (h : (.next u : Answer) = .next t) (e : Effect s i u) : Effect s i t := by
  cases h
  exact e

/-- A meaning behind a range check has the effect of its answer, or sets the latch. -/
theorem Effect.of_guard {p : Prop} [Decidable p] {k : FaultKind}
    (h : (if p then .next u else raiseFault k s) = (.next t : Answer))
    (hi : Instr.canFault i = true) (e : Effect s i u) : Effect s i t := by
  split at h
  · exact e.of_next h
  · exact .of_next h (.fault k hi)

theorem Effect.of_skip {c : Bool} (h : (.next (s.skipIf c) : Answer) = .next t)
    (hi : Instr.isSkip i = true) : Effect s i t := by
  rw [State.skipIf_eq] at h
  exact .of_next h (.skip c hi)

theorem Effect.of_store {p : Prop} [Decidable p] {k : FaultKind} {bs : List Byte}
    (h : (if p then .next (s.writeBytes s.i.toNat bs) else raiseFault k s) = (.next t : Answer))
    (hf : Instr.canFault i = true) (hi : (∃ x, i = .bcd x) ∨ ∃ x, i = .storeRegs x) :
    Effect s i t := by
  rw [State.writeBytes_eq] at h
  exact .of_guard h hf (.stored bs hi)

theorem execLoadRegs_effect {x : Reg} (h : execLoadRegs x s = .next t) :
    Effect s (.loadRegs x) t := by
  rw [execLoadRegs, State.loadFirst_eq] at h
  exact .of_guard h rfl (.loaded x)

theorem execRet_effect (h : execRet s = .next t) : Effect s .ret t := by
  unfold execRet at h
  split at h
  · exact .of_next h (.fault _ rfl)
  · next hsp => exact .of_next h (.ret (fun e => hsp (s.sp_eq_zero.2 e)))

theorem execCall_effect {nnn : Imm12} (h : execCall nnn s = .next t) :
    Effect s (.call nnn) t := by
  unfold execCall at h
  split at h
  · exact .of_next h (.fault _ rfl)
  · next hsp => exact .of_next h (.call nnn (fun e => hsp (s.sp_eq_sixteen.2 e)))

/-- R95, with a key latched. -/
theorem execWaitKey_some {x : Reg} {k : Key} (hk : s.released = some k) :
    execWaitKey x s = .next (s.setV x (k.setWidth 8)) := by
  simp only [execWaitKey, hk]

/-- R95, with the latch empty. -/
theorem execWaitKey_none {x : Reg} (hk : s.released = none) :
    execWaitKey x s = .next (s.setIp (s.ip - 2)) := by
  simp only [execWaitKey, hk]

theorem execWaitKey_effect {x : Reg} (h : execWaitKey x s = .next t) :
    Effect s (.waitKey x) t := by
  cases hk : s.released with
  | none => exact .of_next ((execWaitKey_none hk).symm.trans h) (.retry x)
  | some k =>
    exact .of_next ((execWaitKey_some hk).symm.trans h) (.register x _ (beq_self_eq_true x))

/-- What an instruction can do, said once: every answer of `exec` is one of the effects. -/
theorem exec_effect (h : exec i s = .next t) : Effect s i t := by
  cases i with
  | cls => exact .of_next h (.screen _ (.inl rfl))
  | setAll => exact .of_next h (.screen _ (.inr rfl))
  | ret => exact execRet_effect h
  | jump nnn => exact .of_next h (.jump nnn)
  | call nnn => exact execCall_effect h
  | jumpOffset nnn => exact .of_next h (.jumpOffset nnn)
  | skipEq | skipNeq | skipEqReg | skipNeqReg | skipKey | skipNokey => exact .of_skip h rfl
  | load x | add x | mov x | or x | and x | xor x | loadDelay x =>
    exact .of_next h (.register x _ (beq_self_eq_true x))
  | addReg x | sub x | shr x | subn x | shl x =>
    exact .of_next h (.resultFlag x _ _ (beq_self_eq_true x) rfl)
  | loadI nnn => exact .of_next h (.address _ (.inl ⟨nnn, rfl⟩))
  | addI x => exact .of_next h (.address _ (.inr (.inl ⟨x, rfl⟩)))
  | fontAddr x => exact .of_next h (.address _ (.inr (.inr ⟨x, rfl⟩)))
  | rand x nn => exact .of_next h (.random x nn _)
  | draw x y n => exact .of_guard h rfl (.sprite x y n _ _)
  | waitKey x => exact execWaitKey_effect h
  | setDelay x => exact .of_next h (.delay x)
  | setSound x => exact .of_next h (.sound x)
  | bcd x => exact .of_store h rfl (.inl ⟨x, rfl⟩)
  | storeRegs x => exact .of_store h rfl (.inr ⟨x, rfl⟩)
  | loadRegs x => exact execLoadRegs_effect h

/-! ## Each piece of state has its writers -/

/-- R8, R9: a register changes only in an instruction that names it as a destination, or, for VF, in
a flag writer. -/
theorem Effect.getV_eq (e : Effect s i t) {z : Reg} (hd : Instr.hasDestination z i = false)
    (hf : z = regVF → Instr.writesFlag i = false) : t.getV z = s.getV z := by
  have ne_dest : ∀ x, Instr.hasDestination x i = true → z ≠ x := by
    rintro x hx rfl
    simp [hx] at hd
  have ne_vf : Instr.writesFlag i = true → z ≠ regVF := by
    intro hw hz
    simp [hf hz] at hw
  cases e with
  | register x b hx => exact State.setV_getV_ne s (ne_dest x hx) b
  | resultFlag x r f hx hw =>
    exact State.setResultFlag_getV_other s (ne_dest x hx) (ne_vf hw) r f
  | random x nn b => exact State.setV_getV_ne _ (ne_dest x (beq_self_eq_true x)) b
  | sprite x y n d f => exact State.setV_getV_ne _ (ne_vf rfl) f
  | loaded x =>
    have hz : ¬ z.toNat ≤ x.toNat := of_decide_eq_false hd
    have hz : ¬ z.toNat < x.toNat + 1 := mt Nat.le_of_lt_succ hz
    exact (State.loadFirst_getV s (by omega) z).trans (if_neg hz)
  | _ => rfl

/-- R10. -/
theorem Effect.i_eq (e : Effect s i t) (hl : ∀ nnn, i ≠ .loadI nnn) (ha : ∀ x, i ≠ .addI x)
    (hf : ∀ x, i ≠ .fontAddr x) : t.i = s.i := by
  cases e with
  | address a hi =>
    obtain ⟨nnn, rfl⟩ | ⟨x, rfl⟩ | ⟨x, rfl⟩ := hi
    · exact absurd rfl (hl nnn)
    · exact absurd rfl (ha x)
    · exact absurd rfl (hf x)
  | _ => rfl

/-- R11. -/
theorem Effect.ip_eq (e : Effect s i t) (ha : Instr.assignsIp i = false)
    (hs : Instr.isSkip i = false) (hw : ∀ x, i ≠ .waitKey x) : t.ip = s.ip := by
  cases e with
  | skip c hi => simp [hi] at hs
  | jump | jumpOffset | call | ret => cases ha
  | retry x => exact absurd rfl (hw x)
  | _ => rfl

/-- R11: a skip moves ip by 2 or not at all. -/
theorem Effect.ip_of_skip (e : Effect s i t) (hs : Instr.isSkip i = true) :
    t.ip = s.ip ∨ t.ip = s.ip + 2 := by
  cases e with
  | skip c hi => cases c with
    | false => exact .inl rfl
    | true => exact .inr rfl
  | jump | jumpOffset | call | ret | retry => cases hs
  | _ => exact .inl rfl

/-- R95: WAIT-KEY moves ip back by 2 or not at all. -/
theorem Effect.ip_of_waitKey {x : Reg} (e : Effect s (.waitKey x) t) :
    t.ip = s.ip ∨ t.ip = s.ip - 2 := by
  cases e with
  | retry => exact .inr rfl
  | skip c hi => cases hi
  | _ => exact .inl rfl

/-- R12: the slots. -/
theorem Effect.stack_eq (e : Effect s i t) (hc : ∀ nnn, i ≠ .call nnn) : t.stack = s.stack := by
  cases e with
  | call nnn => exact absurd rfl (hc nnn)
  | _ => rfl

/-- R12: the number of return addresses held. -/
theorem Effect.sp_eq (e : Effect s i t) (hc : ∀ nnn, i ≠ .call nnn) (hr : i ≠ .ret) :
    t.sp = s.sp := by
  cases e with
  | call nnn => exact absurd rfl (hc nnn)
  | ret => exact absurd rfl hr
  | _ => rfl

/-- R13. -/
theorem Effect.dt_eq (e : Effect s i t) (hd : ∀ x, i ≠ .setDelay x) : t.dt = s.dt := by
  cases e with
  | delay x => exact absurd rfl (hd x)
  | _ => rfl

/-- R14. -/
theorem Effect.st_eq (e : Effect s i t) (hs : ∀ x, i ≠ .setSound x) : t.st = s.st := by
  cases e with
  | sound x => exact absurd rfl (hs x)
  | _ => rfl

/-- R16. -/
theorem Effect.disp_eq (e : Effect s i t) (hc : i ≠ .cls) (ha : i ≠ .setAll)
    (hd : ∀ x y n, i ≠ .draw x y n) : t.disp = s.disp := by
  cases e with
  | screen d hi => exact absurd hi (not_or.2 ⟨hc, ha⟩)
  | sprite x y n => exact absurd rfl (hd x y n)
  | _ => rfl

/-- R19, R104. -/
theorem Effect.fault_eq (e : Effect s i t) (hf : Instr.canFault i = false) :
    t.fault = s.fault := by
  cases e with
  | fault k hi => simp [hi] at hf
  | _ => rfl

/-- R19: no instruction clears the latch. -/
theorem Effect.fault_ne_none (e : Effect s i t) (hf : s.fault ≠ none) : t.fault ≠ none := by
  cases e with
  | fault k => exact Option.some_ne_none k
  | _ => exact hf

/-- R17, R18, R21: what no instruction writes. -/
theorem Effect.frame (e : Effect s i t) :
    t.key = s.key ∧ t.released = s.released ∧ t.cfg = s.cfg ∧ t.started = s.started := by
  cases e <;> exact ⟨rfl, rfl, rfl, rfl⟩

/-- R114: only RAND draws a byte. -/
theorem Effect.draws_eq (e : Effect s i t) (hr : ∀ x nn, i ≠ .rand x nn) :
    t.draws = s.draws := by
  cases e with
  | random x nn => exact absurd rfl (hr x nn)
  | _ => rfl

/-- Settles O55, one lemma about `Effect` for each piece of state. -/
theorem eachPieceHasItsWriters : Obligations.EachPieceHasItsWriters := by
  unfold Obligations.EachPieceHasItsWriters
  intro i s t h
  have e := exec_effect h
  obtain ⟨hkey, hreleased, hcfg, hstarted⟩ := e.frame
  exact ⟨fun z hz hd => e.getV_eq hd (fun hv => absurd hv hz), e.i_eq, e.ip_eq, e.ip_of_skip,
    fun ⟨_, hx⟩ => Effect.ip_of_waitKey (hx ▸ e), e.stack_eq, e.sp_eq, e.dt_eq, e.st_eq,
    e.disp_eq, e.fault_eq, e.fault_ne_none, hkey, hreleased, hcfg, hstarted, e.draws_eq⟩

/-! ## VF (R9) -/

/-- R9, R73: a flag writer that leaves the latch clear leaves 0x00 or 0x01 in VF. -/
theorem exec_flag_getV (h : exec i s = .next t) (hw : Instr.writesFlag i = true)
    (hf : t.fault = none) : t.getV regVF = 0 ∨ t.getV regVF = 1 := by
  cases i with
  | addReg | sub | shr | subn | shl =>
    cases h
    rw [State.setResultFlag_getV_vf]
    exact flagByte_or _
  | draw x y n =>
    change execDraw x y n s = .next t at h
    unfold execDraw at h
    split at h
    · cases h
      rw [State.setV_getV_same]
      exact flagByte_or _
    · cases h
      cases hf
  | _ => cases hw

/-- Settles O56: VF as one of the registers, and the flag writers' own value. -/
theorem vfHasItsWriters : Obligations.VfHasItsWriters := by
  unfold Obligations.VfHasItsWriters
  intro i s t h
  exact ⟨fun hw hd => (exec_effect h).getV_eq hd (fun _ => hw),
    fun hw _ hf => exec_flag_getV h hw hf⟩

/-! ## How far ip goes (R11) -/

/-- R62: with an address held, sp stands just above a slot. -/
theorem State.exists_top_slot (s : State) (hsp : s.sp.val ≠ 0) :
    ∃ k : Fin 16, k.val + 1 = s.sp.val :=
  ⟨⟨s.sp.val - 1, by omega⟩, Nat.sub_add_cancel (by omega)⟩

/-- R63: the address RET returns to is that of a slot. -/
theorem State.top_le {n : Nat} (hsp : s.sp.val ≠ 0)
    (hs : ∀ k : Fin 16, (s.stack[k]).toNat ≤ n) : s.top.toNat ≤ n := by
  obtain ⟨k, hk⟩ := s.exists_top_slot hsp
  rw [State.top_eq s k hk]
  exact hs k

/-- R11: from an ip advanced past an instruction inside memory. JUMP-OFFSET goes furthest, to
0xFFF + 0xFF. -/
theorem Effect.ip_le (e : Effect s i t) (h2 : 2 ≤ s.ip.toNat) (hip : s.ip.toNat ≤ 0x1000)
    (hs : ∀ k : Fin 16, (s.stack[k]).toNat ≤ 0x1000) : t.ip.toNat ≤ 0x10FE := by
  cases e with
  | skip c =>
    cases c with
    | false => simp only [Bool.false_eq_true, if_false]; omega
    | true => simp only [if_true]; bv_omega
  | jump nnn | call nnn =>
    have := nnn.isLt
    simp only [State.setIp_ip, addrOf_toNat]
    omega
  | jumpOffset nnn =>
    have := nnn.isLt
    have := (s.getV regV0).isLt
    simp only [State.setIp_ip, jumpOffset_toNat]
    omega
  | ret hsp => exact (State.top_le hsp hs).trans (by decide)
  | retry => simp only [State.setIp_ip]; bv_omega
  | _ => exact hip.trans (by decide)

/-- A step whose fetch and decode give an instruction runs that instruction (R50). -/
theorem exec_of_step (hi : s.fetchDecode = .ok i) (h : step s = .next t) :
    exec i s.advanced = .next t := by
  obtain ⟨-, -, ⟨r, hr, -⟩ | ⟨j, hj, hexec⟩⟩ := step_cases h
  · simp [hi] at hr
  · cases hi.symm.trans hj
    exact hexec

/-- The word of a fetched instruction ends inside memory, so the advance does not wrap (R11, R51). -/
theorem State.advanced_ip_toNat (hi : s.fetchDecode = .ok i) :
    s.advanced.ip.toNat = s.ip.toNat + 2 ∧ s.ip.toNat + 2 ≤ 0x1000 := by
  have hin : s.ip.toNat + 1 < 4096 := State.fetchDecode_inside hi
  constructor
  · rw [State.advanced_ip]; bv_omega
  · omega

/-- Settles O53, by the effects of the instruction that runs from the advanced ip. -/
theorem executedIpIsBounded : Obligations.ExecutedIpIsBounded := by
  unfold Obligations.ExecutedIpIsBounded
  rintro s t i ⟨-, -, hs⟩ hi h
  obtain ⟨hip, hle⟩ := State.advanced_ip_toNat hi
  exact (exec_effect (exec_of_step hi h)).ip_le (by omega) (by omega) hs

/-! ## What no instruction reads (R12, R14) -/

/-- The state with another sound timer and other slots: the two pieces that only SET-SOUND, CALL and
RET touch. -/
def State.withUnread (s : State) (b : Byte) (stack : Vector Addr 16) : State :=
  { s with st := b, stack := stack }

section
variable (s) (b : Byte) (stack : Vector Addr 16)

theorem State.skipIf_withUnread (c : Bool) :
    (s.withUnread b stack).skipIf c = (s.skipIf c).withUnread b stack := by
  cases c <;> rfl

theorem State.writeBytes_withUnread (a : Nat) (bs : List Byte) :
    (s.withUnread b stack).writeBytes a bs = (s.writeBytes a bs).withUnread b stack := by
  induction bs generalizing s a with
  | nil => rfl
  | cons c bs ih => exact ih (s.writeByte a c) (a + 1)

theorem State.loadFirst_withUnread (n : Nat) :
    (s.withUnread b stack).loadFirst n = (s.loadFirst n).withUnread b stack := by
  induction n with
  | zero => rfl
  | succ n ih => simp only [State.loadFirst, ih]; rfl

variable {s}

/-- A guard that both states pass or both fail: what relates the branches relates the answers. -/
theorem ite_next_map (f : State → State) {p : Prop} [Decidable p] {u w : State}
    (h : (if p then .next u else .next w) = (.next t : Answer)) :
    (if p then .next (f u) else .next (f w)) = (.next (f t) : Answer) := by
  split at h
  · next hp => cases h; exact if_pos hp
  · next hp => cases h; exact if_neg hp

theorem execWaitKey_withUnread {x : Reg} (h : execWaitKey x s = .next t) :
    execWaitKey x (s.withUnread b stack) = .next (t.withUnread b stack) := by
  cases hk : s.released with
  | none =>
    cases (execWaitKey_none hk).symm.trans h
    exact execWaitKey_none (s := s.withUnread b stack) hk
  | some k =>
    cases (execWaitKey_some hk).symm.trans h
    exact execWaitKey_some (s := s.withUnread b stack) hk

/-- Every instruction but CALL, RET and SET-SOUND neither reads nor writes the sound timer and the
slots. -/
theorem exec_withUnread (hc : ∀ nnn, i ≠ .call nnn) (hr : i ≠ .ret) (hs : ∀ x, i ≠ .setSound x)
    (h : exec i s = .next t) : exec i (s.withUnread b stack) = .next (t.withUnread b stack) := by
  cases i with
  | call nnn => exact absurd rfl (hc nnn)
  | ret => exact absurd rfl hr
  | setSound x => exact absurd rfl (hs x)
  | skipEq | skipNeq | skipEqReg | skipNeqReg | skipKey | skipNokey =>
    cases h
    exact congrArg _ (State.skipIf_withUnread s b stack _)
  | waitKey x => exact execWaitKey_withUnread b stack h
  | draw | bcd => exact ite_next_map (·.withUnread b stack) h
  | storeRegs x =>
    have hu := ite_next_map (·.withUnread b stack) h
    rw [← State.writeBytes_withUnread] at hu
    exact hu
  | loadRegs x =>
    have hu := ite_next_map (·.withUnread b stack) h
    rw [← State.loadFirst_withUnread] at hu
    exact hu
  | _ => cases h; rfl

/-- R14, for an instruction that leaves the slots alone. -/
theorem exec_withSound (hc : ∀ nnn, i ≠ .call nnn) (hr : i ≠ .ret) (hs : ∀ x, i ≠ .setSound x)
    (h : exec i s = .next t) : exec i { s with st := b } = .next { t with st := b } := by
  have ht := (exec_effect h).stack_eq hc
  calc exec i { s with st := b }
      = .next (t.withUnread b s.stack) := exec_withUnread b s.stack hc hr hs h
    _ = .next { t with st := b } := by rw [← ht]; rfl

end

/-- Settles O57: CALL and RET by their guards, every other instruction by `exec_withUnread`. -/
theorem soundTimerIsUnobservable : Obligations.SoundTimerIsUnobservable := by
  unfold Obligations.SoundTimerIsUnobservable
  intro i s t b hs h
  cases i with
  | call | ret => exact ite_next_map (fun u => { u with st := b }) h
  | _ => exact exec_withSound b (by nofun) (by nofun) hs h

/-- `t` and `u` differ only in slots at sp and above, which are stale (R12). -/
def DifferInStaleSlots (t u : State) : Prop :=
  u = { t with stack := u.stack } ∧ ∀ k : Fin 16, k.val < t.sp.val → u.stack[k] = t.stack[k]

section
variable {stack : Vector Addr 16} (hd : DifferInStaleSlots s { s with stack := stack })
include hd

/-- CALL makes the slot at sp a live one, with the same address in it. -/
theorem execCall_stale {nnn : Imm12} (h : execCall nnn s = .next t) :
    ∃ u, execCall nnn { s with stack := stack } = .next u ∧ DifferInStaleSlots t u := by
  obtain ⟨-, hd⟩ := hd
  unfold execCall at h
  split at h <;> cases h
  · next hsp => exact ⟨_, if_pos hsp, rfl, hd⟩
  · next hsp =>
    refine ⟨_, if_neg hsp, rfl, fun k hk => ?_⟩
    have hsp' := s.push_sp_val s.ip (fun e => hsp (s.sp_eq_sixteen.2 e))
    have hk : k.val < s.sp.val + 1 := lt_of_lt_of_eq hk hsp'
    change (State.push { s with stack := stack } s.ip).stack[k] = (s.push s.ip).stack[k]
    rw [State.push_slot, State.push_slot]
    split
    · rfl
    · next hne => exact hd k (lt_of_le_of_ne (Nat.le_of_lt_succ hk) hne)

/-- RET reads the slot below sp, which is a live one. -/
theorem execRet_stale (h : execRet s = .next t) :
    ∃ u, execRet { s with stack := stack } = .next u ∧ DifferInStaleSlots t u := by
  obtain ⟨-, hd⟩ := hd
  unfold execRet at h
  split at h <;> cases h
  · next hsp => exact ⟨_, if_pos hsp, rfl, hd⟩
  · next hne =>
    have hsp : s.sp.val ≠ 0 := fun e => hne (s.sp_eq_zero.2 e)
    obtain ⟨k, hk⟩ := s.exists_top_slot hsp
    have htop : State.top { s with stack := stack } = s.top := by
      rw [State.top_eq s k hk, State.top_eq { s with stack := stack } k hk]
      exact hd k (by omega)
    refine ⟨_, if_neg hne, by rw [htop]; rfl, fun j hj => hd j ?_⟩
    calc j.val < s.dropTop.sp.val := hj
      _ < s.sp.val := by have := s.dropTop_sp_val hsp; omega

/-- R12, for an instruction that leaves the stack alone. -/
theorem exec_stale (hc : ∀ nnn, i ≠ .call nnn) (hr : i ≠ .ret) (hs : ∀ x, i ≠ .setSound x)
    (h : exec i s = .next t) :
    ∃ u, exec i { s with stack := stack } = .next u ∧ DifferInStaleSlots t u := by
  obtain ⟨-, hd⟩ := hd
  have e := exec_effect h
  have hst := e.st_eq hs
  refine ⟨{ t with stack := stack }, ?_, rfl, ?_⟩
  · calc exec i { s with stack := stack }
        = .next (t.withUnread s.st stack) := exec_withUnread s.st stack hc hr hs h
      _ = .next { t with stack := stack } := by rw [← hst]; rfl
  · rw [e.sp_eq hc hr, e.stack_eq hc]
    exact hd

end

/-- Settles O58: CALL and RET by themselves, SET-SOUND by its one next state, and every other
instruction by `exec_withUnread`. -/
theorem staleSlotsAreUnobservable : Obligations.StaleSlotsAreUnobservable := by
  unfold Obligations.StaleSlotsAreUnobservable
  intro i s t stack hd h
  have hd : DifferInStaleSlots s { s with stack := stack } := ⟨rfl, hd⟩
  cases i with
  | call nnn => exact execCall_stale hd h
  | ret => exact execRet_stale hd h
  | setSound x =>
    cases h
    exact ⟨_, rfl, rfl, hd.2⟩
  | _ => exact exec_stale hd (by nofun) (by nofun) (by nofun) h

/-! ## The invariant at reset (R22) -/

/-- The state of R22 meets the invariant on every legal configuration: no byte is listed and no slot
holds an address. -/
theorem State.resetWith_inv {c : Config} (hc : c.legal = true) : (State.resetWith c).Inv :=
  ⟨hc, Memory.nil_wf c.fontTable, fun k => by simp [State.resetWith]⟩

/-- Settles O50, on the default configuration. -/
theorem resetMeetsInv : Obligations.ResetMeetsInv := State.resetWith_inv (by decide)

end Sys2Proof.Machine
end

section
/-! PROOFS, memory (20_memory.md): the invariant along a step (R24), the range check of a data
access (R31), what alters memory (R32, R39), a store into the instruction stream (R36), and Load
(R38). -/

namespace Sys2Proof.Machine

variable {i : Instr} {s t u : State}

/-! ## The invariant along a step (R24, R45, R63) -/

/-- Every instruction keeps memory canonical: the only writes are bytes stored one after another. -/
theorem Effect.mem_wf (e : Effect s i t) (h : Memory.wf s.cfg.fontTable s.mem) :
    Memory.wf s.cfg.fontTable t.mem := by
  cases e with
  | stored bs => exact State.writeBytes_wf h s.i.toNat bs
  | _ => exact h

/-- R63: the only address that enters a slot is the ip a CALL pushes. -/
theorem Effect.stack_le {n : Nat} (e : Effect s i t) (hip : s.ip.toNat ≤ n)
    (hs : ∀ k : Fin 16, (s.stack[k]).toNat ≤ n) (k : Fin 16) : (t.stack[k]).toNat ≤ n := by
  cases e with
  | call nnn =>
    change ((s.push s.ip).stack[k]).toNat ≤ n
    rw [State.push_slot]
    split
    · exact hip
    · exact hs k
  | _ => exact hs k

/-- An instruction that runs from an ip of at most 0x1000 keeps the invariant. -/
theorem Effect.inv (e : Effect s i t) (hip : s.ip.toNat ≤ 0x1000) (hinv : s.Inv) : t.Inv := by
  obtain ⟨hlegal, hwf, hstack⟩ := hinv
  obtain ⟨-, -, hcfg, -⟩ := e.frame
  exact ⟨hcfg ▸ hlegal, hcfg ▸ e.mem_wf hwf, e.stack_le hip hstack⟩

/-- The advance of a fetch touches nothing the invariant speaks of. -/
theorem State.Inv.advanced (hinv : s.Inv) : s.advanced.Inv := hinv

/-- Settles O51: a halt only advances ip, and an instruction runs from an ip of at most 0x1000, its
word having ended inside memory. -/
theorem stepKeepsInv : Obligations.StepKeepsInv := by
  unfold Obligations.StepKeepsInv
  intro s t hinv h
  obtain ⟨-, -, ⟨r, -, rfl⟩ | ⟨i, hi, hexec⟩⟩ := step_cases h
  · exact hinv.advanced
  · obtain ⟨hip, hle⟩ := State.advanced_ip_toNat hi
    exact (exec_effect hexec).inv (hip.trans_le hle) hinv.advanced

/-! ## The range check of a data access (R31, R103) -/

/-- A guarded access whose bytes are all in memory is made. -/
theorem guard_in_range {a : Addr} {n : Nat} {k : FaultKind} (h : a.toNat + n ≤ 4096) :
    (if rangeOk a n then .next u else raiseFault k s) = (.next u : Answer) :=
  if_pos ((rangeOk_iff a n).2 (.inr h))

/-- A guarded access of at least one byte that passes the end of memory raises its fault. -/
theorem guard_out_of_range {a : Addr} {n : Nat} {k : FaultKind} (hn : n ≠ 0)
    (h : 4096 < a.toNat + n) :
    (if rangeOk a n then .next u else raiseFault k s) =
      (.next { s with fault := some k } : Answer) := by
  have hbad : ¬ rangeOk a n = true := by
    rw [rangeOk_iff]
    omega
  exact if_neg hbad

/-- R89, its three bytes in memory. -/
theorem exec_bcd_in_range (x : Reg) (h : s.i.toNat + 2 < 4096) :
    exec (.bcd x) s = .next (s.writeBytes s.i.toNat (bcdDigits (s.getV x))) :=
  guard_in_range h

/-- R90, its bytes in memory. -/
theorem exec_storeRegs_in_range {x : Reg} (h : s.i.toNat + x.toNat < 4096) :
    exec (.storeRegs x) s = .next (s.writeBytes s.i.toNat (s.regsUpTo x)) :=
  guard_in_range h

/-- Settles O20: each of the four instructions is a guarded access. -/
theorem outOfRangeAccessFaults : Obligations.OutOfRangeAccessFaults := by
  unfold Obligations.OutOfRangeAccessFaults
  intro s
  refine ⟨fun x y n hn h => guard_out_of_range hn (by omega),
    fun x h => guard_out_of_range (by decide) (by omega), fun x h => ?_⟩
  have hpast : 4096 < s.i.toNat + (x.toNat + 1) := by omega
  exact ⟨guard_out_of_range (Nat.succ_ne_zero _) hpast,
    guard_out_of_range (Nat.succ_ne_zero _) hpast⟩

/-! ## What alters memory (R32, R39) -/

/-- What a byte reads as depends on the listed bytes and the font table alone. -/
theorem sameBytes_of_mem_eq (hcfg : t.cfg = s.cfg) (hmem : t.mem = s.mem) : SameBytes s t := by
  intro a
  rw [State.readByte, hcfg, hmem, State.readByte]

/-- R39: only BCD and STORE-REGS write memory. -/
theorem Effect.mem_eq (e : Effect s i t) (hb : ∀ x, i ≠ .bcd x) (hs : ∀ x, i ≠ .storeRegs x) :
    t.mem = s.mem := by
  cases e with
  | stored bs hi =>
    obtain ⟨x, rfl⟩ | ⟨x, rfl⟩ := hi
    · exact absurd rfl (hb x)
    · exact absurd rfl (hs x)
  | _ => rfl

/-- I at the load base, where reset leaves a zero, and 255 in V0: both stores put a non-zero byte
there. -/
def storeExample : State := { State.reset.setV 0 255 with i := 0x200 }

/-- Settles O54, by `Effect.mem_eq` and one state that both stores alter. -/
theorem onlyStoresAlterMemory : Obligations.OnlyStoresAlterMemory := by
  unfold Obligations.OnlyStoresAlterMemory
  refine ⟨fun i s t h hb hs => ?_, ?_, ?_⟩
  · have e := exec_effect h
    obtain ⟨-, -, hcfg, -⟩ := e.frame
    have hmem := e.mem_eq hb hs
    exact ⟨hmem, sameBytes_of_mem_eq hcfg hmem⟩
  · exact ⟨storeExample, _, 0x200, exec_bcd_in_range 0 (by decide), by decide⟩
  · exact ⟨storeExample, _, 0x200, exec_storeRegs_in_range (by decide), by decide⟩

/-! ## Bytes stored from I up (R28, R36) -/

@[simp] theorem State.writeBytes_ip (s : State) (a : Nat) (bs : List Byte) :
    (s.writeBytes a bs).ip = s.ip := by
  rw [State.writeBytes_eq]

@[simp] theorem State.writeBytes_cfg (s : State) (a : Nat) (bs : List Byte) :
    (s.writeBytes a bs).cfg = s.cfg := by
  rw [State.writeBytes_eq]

/-- What stands at an address after bytes are stored from I up, the bytes given by a function. -/
theorem State.writeBytes_readByte_eq_byteAfterStore {bs : List Byte} {f : Nat → Byte}
    (hin : s.i.toNat + bs.length ≤ 4096) (hf : ∀ k < bs.length, bs.getD k 0 = f k) (a : Nat) :
    (s.writeBytes s.i.toNat bs).readByte a = s.byteAfterStore bs.length f a := by
  rw [State.writeBytes_readByte s hin, State.byteAfterStore]
  split
  · exact hf _ (by omega)
  · rfl

/-- `t` fetches where `s` does, and reads there the two bytes that `byteAfter` gives, high byte
first (R27); where they are an instruction, it is the one fetched. -/
def FetchesBytes (s t : State) (byteAfter : Nat → Byte) : Prop :=
  t.ip = s.ip ∧
  t.fetchWord = some (byteAfter s.ip.toNat ++ byteAfter (s.ip.toNat + 1)) ∧
  ∀ i, decode s.cfg.setAllWord (byteAfter s.ip.toNat ++ byteAfter (s.ip.toNat + 1)) = .ok i →
    t.fetchDecode = .ok i

/-- A fetch inside memory reads the bytes that stand at ip. -/
theorem fetchesBytes_of_readByte {byteAfter : Nat → Byte} (hin : s.ip.toNat + 1 < 4096)
    (hip : t.ip = s.ip) (hcfg : t.cfg = s.cfg) (hread : ∀ a, t.readByte a = byteAfter a) :
    FetchesBytes s t byteAfter := by
  have hword : t.fetchWord = some (byteAfter s.ip.toNat ++ byteAfter (s.ip.toNat + 1)) := by
    rw [State.fetchWord_inside (hip ▸ hin), hip, hread, hread, wordOf]
  exact ⟨hip, hword, fun i hi => State.fetchDecode_word hword (hcfg ▸ hi)⟩

/-- R36: the fetch after bytes are stored from I up sees them. -/
theorem State.writeBytes_fetchesBytes {bs : List Byte} {f : Nat → Byte}
    (hin : s.ip.toNat + 1 < 4096) (hrange : s.i.toNat + bs.length ≤ 4096)
    (hf : ∀ k < bs.length, bs.getD k 0 = f k) :
    FetchesBytes s (s.writeBytes s.i.toNat bs) (s.byteAfterStore bs.length f) :=
  fetchesBytes_of_readByte hin (s.writeBytes_ip _ bs) (s.writeBytes_cfg _ bs)
    (State.writeBytes_readByte_eq_byteAfterStore hrange hf)

/-- R90: the `k`-th byte STORE-REGS writes, by its number. -/
theorem State.regsUpTo_getD_ofNat (s : State) (x : Reg) {k : Nat} (hk : k < (s.regsUpTo x).length) :
    (s.regsUpTo x).getD k 0 = s.getV (BitVec.ofNat 4 k) := by
  rw [State.regsUpTo_length] at hk
  have hx := x.isLt
  have hnum : (BitVec.ofNat 4 k).toNat = k := by
    rw [BitVec.toNat_ofNat]
    omega
  have hget := s.regsUpTo_getD x (BitVec.ofNat 4 k) (by omega)
  rwa [hnum] at hget

/-- R89: the `k`-th of the three digits, hundreds first. -/
theorem bcdDigits_getD (b : Byte) {k : Nat} (hk : k < 3) :
    (bcdDigits b).getD k 0 = BitVec.ofNat 8 (b.toNat / 10 ^ (2 - k) % 10) := by
  have hb := b.isLt
  interval_cases k
  · have hundreds : b.toNat / 100 % 10 = b.toNat / 100 := by omega
    exact congrArg (BitVec.ofNat 8) hundreds.symm
  · rfl
  · exact congrArg (fun n => BitVec.ofNat 8 (n % 10)) (Nat.div_one b.toNat).symm

/-- Settles O41: both instructions store a list of bytes from I up, and the fetch sees them. -/
theorem storedWordIsFetchedNext : Obligations.StoredWordIsFetchedNext := by
  unfold Obligations.StoredWordIsFetchedNext
  intro x s hin
  refine ⟨fun h => ⟨_, exec_storeRegs_in_range h, ?_⟩, fun h => ⟨_, exec_bcd_in_range x h, ?_⟩⟩
  · have hlen := s.regsUpTo_length x
    have hfetch := State.writeBytes_fetchesBytes hin (by omega)
      (fun k hk => s.regsUpTo_getD_ofNat x hk)
    rw [hlen] at hfetch
    exact hfetch
  · exact State.writeBytes_fetchesBytes (bs := bcdDigits (s.getV x)) hin h
      (fun k hk => bcdDigits_getD (s.getV x) hk)

/-! ## Load (R38) -/

/-- An admitted Load stores its bytes from the load base up. -/
theorem State.hostLoad_admitted {bytes : List Byte} (hs : s.started = false)
    (hlen : loadBase + bytes.length ≤ memSize) :
    s.hostLoad bytes = .next (s.writeBytes loadBase bytes) := by
  rw [State.hostLoad, hs, if_neg Bool.false_ne_true, if_pos hlen]

/-- Before the first Tick, a Load past the end of memory is refused. -/
theorem State.hostLoad_tooLong {bytes : List Byte} (hs : s.started = false)
    (hlen : ¬ loadBase + bytes.length ≤ memSize) :
    s.hostLoad bytes = .refused .loadTooLong := by
  rw [State.hostLoad, hs, if_neg Bool.false_ne_true, if_neg hlen]

/-- After the first Tick, every Load is refused. -/
theorem State.hostLoad_afterTick {bytes : List Byte} (hs : s.started = true) :
    s.hostLoad bytes = .refused .loadAfterTick := by
  rw [State.hostLoad, hs, if_pos rfl]

/-- Memory holds 3584 bytes from the load base up. -/
theorem load_fits_iff (n : Nat) : loadBase + n ≤ memSize ↔ n ≤ 3584 := by
  unfold loadBase memSize
  omega

/-- Settles O47, by the three answers of Load and what writing bytes does to memory. -/
theorem loadWritesImage : Obligations.LoadWritesImage := by
  unfold Obligations.LoadWritesImage
  intro s bytes
  refine ⟨fun hs hlen => ?_, fun hs hlen => ?_, State.hostLoad_afterTick⟩
  · have hfits := (load_fits_iff bytes.length).2 hlen
    have hread := State.writeBytes_readByte s hfits
    refine ⟨_, State.hostLoad_admitted hs hfits, fun k hk => ?_, fun c hc => ?_,
      s.writeBytes_eq loadBase bytes⟩
    · calc (s.writeBytes loadBase bytes).readByte (loadBase + k)
          = bytes.getD (loadBase + k - loadBase) 0 := by rw [hread, if_pos (by omega)]
        _ = bytes.getD k 0 := by rw [Nat.add_sub_cancel_left]
    · have hout : ¬ (loadBase ≤ c ∧ c < loadBase + bytes.length) := by
        unfold loadBase
        omega
      rw [hread, if_neg hout]
  · exact State.hostLoad_tooLong hs (mt (load_fits_iff bytes.length).1 (by omega))

end Sys2Proof.Machine
end

section
/-! PROOFS, encoding (30_encoding.md): the rows of the map are disjoint (R43), each row reads
exactly the words of its printed pattern (R44), so decoder and encoder undo each other, and what no
row reads is what R46 lists. -/

namespace Sys2Proof

open Sys2Proof.Machine

/-! ## The rows are disjoint (R43) -/

/-- No word selects both rows. -/
def OpRow.Disjoint (r q : OpRow) : Prop := ∀ w, ¬(r.hit w = true ∧ q.hit w = true)

theorem OpRow.disjoint_symm : Std.Symm OpRow.Disjoint :=
  ⟨fun _ _ h w hw => h w hw.symm⟩

/-- Two rows whose match values differ at a bit that both masks test are disjoint. -/
theorem OpRow.disjoint_of_conflict {r q : OpRow} (h : r.pat &&& q.mask ≠ q.pat &&& r.mask) :
    r.Disjoint q := by
  rintro w ⟨hr, hq⟩
  have hr : w &&& r.mask = r.pat := eq_of_beq hr
  have hq : w &&& q.mask = q.pat := eq_of_beq hq
  exact h (by rw [← hr, ← hq, BitVec.and_assoc, BitVec.and_assoc, BitVec.and_comm r.mask])

theorem baseRows_conflict :
    baseRows.Pairwise (fun r q => r.pat &&& q.mask ≠ q.pat &&& r.mask) := by decide

theorem baseRows_disjoint : baseRows.Pairwise OpRow.Disjoint :=
  baseRows_conflict.imp OpRow.disjoint_of_conflict

/-- R45: a legal `SETALL_WORD` selects no other row. -/
theorem Config.legal_setAllWord {c : Config} {v : Word} (h : c.legal = true)
    (hv : c.setAllWord = some v) : ∀ r ∈ baseRows, r.hit v = false := by
  simpa [Config.legal, hv] using (Bool.and_eq_true_iff.1 h).2

/-- SET-ALL's row is disjoint from any row that `SETALL_WORD` does not select. -/
theorem OpRow.disjoint_setAllRow {r : OpRow} {v : Word} (h : r.hit v = false) (b : Word → Instr) :
    r.Disjoint ⟨0xFFFF, v, b⟩ := by
  rintro w ⟨hr, hw⟩
  have hwv : w = v := of_decide_eq_true ((hit_FFFF v b w).symm.trans hw)
  rw [hwv, h] at hr
  exact Bool.false_ne_true hr

theorem opRows_disjoint {c : Config} (h : c.legal = true) :
    (opRows c.setAllWord).Pairwise OpRow.Disjoint := by
  cases hv : c.setAllWord with
  | none => exact baseRows_disjoint
  | some v =>
    refine List.pairwise_append.2 ⟨baseRows_disjoint, List.pairwise_singleton _ _, ?_⟩
    intro r hr q hq
    rw [List.mem_singleton.1 hq]
    exact OpRow.disjoint_setAllRow (Config.legal_setAllWord h hv r hr) _

/-- Settles O3, by a conflicting bit for each two of the 34 baseline rows, and by R45's premise for
SET-ALL's row. -/
theorem opcodeRowsAreDisjoint : Obligations.OpcodeRowsAreDisjoint := by
  unfold Obligations.OpcodeRowsAreDisjoint
  exact fun _ h => opRows_disjoint h

/-! ## The row a word selects (R43, R44) -/

/-- Among disjoint rows the search finds the one row the word selects. -/
theorem find_of_hit {rs : List OpRow} {r : OpRow} {w : Word} (hd : rs.Pairwise OpRow.Disjoint)
    (hr : r ∈ rs) (hw : r.hit w = true) : rs.find? (fun q => q.hit w) = some r := by
  have hsome : (rs.find? (fun q => q.hit w)).isSome = true := List.find?_isSome.2 ⟨r, hr, hw⟩
  obtain ⟨q, hq⟩ := Option.isSome_iff_exists.1 hsome
  have hqw : q.hit w = true := List.find?_some (p := fun q : OpRow => q.hit w) hq
  have hsymm := OpRow.disjoint_symm
  by_cases hne : q = r
  · rw [hq, hne]
  · exact absurd ⟨hqw, hw⟩ (hd.forall (List.mem_of_find?_eq_some hq) hr hne w)

/-- A word that selects a baseline row decodes by it, whatever `SETALL_WORD` is. -/
theorem decode_of_hit (sa : Option Word) {r : OpRow} {w : Word} (hr : r ∈ baseRows)
    (hw : r.hit w = true) : decode sa w = .ok (r.build w) := by
  rw [decode_eq, opRows, List.find?_append, find_of_hit baseRows_disjoint hr hw]
  rfl

/-- A word that selects no baseline row is SET-ALL's or unrecognized (R45, R46). -/
theorem decode_of_no_hit (sa : Option Word) {w : Word} (h : ∀ r ∈ baseRows, r.hit w = false) :
    decode sa w = if sa = some w then .ok .setAll else .error (.unrecognized w) := by
  have hnone : baseRows.find? (fun r => r.hit w) = none := by simpa using h
  rw [decode_eq, opRows, List.find?_append, hnone, Option.none_or, decode_setAllRows]

theorem exists_hit_or_no_hit (w : Word) :
    (∃ r ∈ baseRows, r.hit w = true) ∨ ∀ r ∈ baseRows, r.hit w = false := by
  by_cases h : ∃ r ∈ baseRows, r.hit w = true
  · exact .inl h
  · exact .inr (by simpa using h)

/-- R45: a legal `SETALL_WORD` decodes as SET-ALL. -/
theorem decode_setAllWord {c : Config} {v : Word} (h : c.legal = true)
    (hv : c.setAllWord = some v) : decode c.setAllWord v = .ok .setAll := by
  rw [decode_of_no_hit _ (Config.legal_setAllWord h hv), if_pos hv]

/-! ## Each row reads exactly the words of its pattern (R42, R44) -/

/-- Row `r` reads the words `pack a`, `a` being the operands, and no others, and it reads `pack a`
as the instruction `f a`. -/
structure OpRow.Reads {α : Type} (r : OpRow) (pack : α → Word) (f : α → Instr) : Prop where
  hit_pack : ∀ a, r.hit (pack a) = true
  build_pack : ∀ a, r.build (pack a) = f a
  pack_of_hit : ∀ w, r.hit w = true → ∃ a, pack a = w

/-- Format Z. -/
theorem reads_z (c : Word) (i : Instr) :
    OpRow.Reads ⟨0xFFFF, c, fun _ => i⟩ (fun _ : Unit => c) (fun _ => i) where
  hit_pack _ := by rw [hit_FFFF, decide_eq_true_iff]
  build_pack _ := rfl
  pack_of_hit w hw := by
    rw [hit_FFFF, decide_eq_true_iff] at hw
    exact ⟨(), hw.symm⟩

/-- Format NNN. -/
theorem reads_nnn (k : Nibble) (f : Imm12 → Instr) :
    OpRow.Reads ⟨0xF000, k.setWidth 16 <<< 12, fun w => f (fieldNNN w)⟩
      (fun nnn => k ++ nnn) f where
  hit_pack nnn := by simp only [hit_F000 _ k rfl, nibble1_nnn, decide_true]
  build_pack nnn := by simp
  pack_of_hit w hw := by
    rw [hit_F000 _ k rfl, decide_eq_true_iff] at hw
    exact ⟨fieldNNN w, hw ▸ word_of_fields_nnn w⟩

/-- Format XNN. -/
theorem reads_xnn (k : Nibble) (f : Reg → Byte → Instr) :
    OpRow.Reads ⟨0xF000, k.setWidth 16 <<< 12, fun w => f (fieldX w) (fieldNN w)⟩
      (fun a : Reg × Byte => k ++ a.1 ++ a.2) (fun a => f a.1 a.2) where
  hit_pack a := by simp only [hit_F000 _ k rfl, nibble1_xnn, decide_true]
  build_pack a := by simp
  pack_of_hit w hw := by
    rw [hit_F000 _ k rfl, decide_eq_true_iff] at hw
    exact ⟨(fieldX w, fieldNN w), hw ▸ word_of_fields_xnn w⟩

/-- Format XYN. -/
theorem reads_xyn (k : Nibble) (f : Reg → Reg → Nibble → Instr) :
    OpRow.Reads ⟨0xF000, k.setWidth 16 <<< 12, fun w => f (fieldX w) (fieldY w) (fieldN w)⟩
      (fun a : Reg × Reg × Nibble => k ++ a.1 ++ a.2.1 ++ a.2.2) (fun a => f a.1 a.2.1 a.2.2) where
  hit_pack a := by simp only [hit_F000 _ k rfl, nibble1_xy, decide_true]
  build_pack a := by simp
  pack_of_hit w hw := by
    rw [hit_F000 _ k rfl, decide_eq_true_iff] at hw
    exact ⟨(fieldX w, fieldY w, nibble4 w), hw ▸ word_of_fields_xy w⟩

/-- Format XY. -/
theorem reads_xy (k l : Nibble) (f : Reg → Reg → Instr) :
    OpRow.Reads ⟨0xF00F, k.setWidth 16 <<< 12 ||| l.setWidth 16, fun w => f (fieldX w) (fieldY w)⟩
      (fun a : Reg × Reg => k ++ a.1 ++ a.2 ++ l) (fun a => f a.1 a.2) where
  hit_pack a := by
    simp only [hit_F00F _ k l rfl, nibble1_xy, nibble4_xy, and_self, decide_true]
  build_pack a := by simp
  pack_of_hit w hw := by
    rw [hit_F00F _ k l rfl, decide_eq_true_iff] at hw
    obtain ⟨rfl, rfl⟩ := hw
    exact ⟨(fieldX w, fieldY w), word_of_fields_xy w⟩

/-- Format X. -/
theorem reads_x (k : Nibble) (l : Byte) (f : Reg → Instr) :
    OpRow.Reads ⟨0xF0FF, k.setWidth 16 <<< 12 ||| l.setWidth 16, fun w => f (fieldX w)⟩
      (fun x => k ++ x ++ l) f where
  hit_pack x := by
    simp only [hit_F0FF _ k l rfl, nibble1_xnn, fieldNN_xnn, and_self, decide_true]
  build_pack x := by simp
  pack_of_hit w hw := by
    rw [hit_F0FF _ k l rfl, decide_eq_true_iff] at hw
    obtain ⟨rfl, rfl⟩ := hw
    exact ⟨fieldX w, word_of_fields_xnn w⟩

/-! ## Decoding an encoding (R44, R45) -/

/-- The encoding of `i` is a word that decodes to `i`. -/
def DecodesBack (sa : Option Word) (i : Instr) : Prop :=
  ∃ w, encode sa i = some w ∧ decode sa w = .ok i

/-- The words of a baseline row's pattern decode to its instructions. -/
theorem OpRow.Reads.decode_pack {α : Type} {r : OpRow} {pack : α → Word} {f : α → Instr}
    (h : r.Reads pack f) {k : Nat} (hk : baseRows[k]? = some r) (sa : Option Word) (a : α) :
    decode sa (pack a) = .ok (f a) := by
  rw [decode_of_hit sa (List.mem_of_getElem? hk) (h.hit_pack a), h.build_pack]

/-- An instruction whose encoding is a word of its row's pattern decodes back. -/
theorem OpRow.Reads.decodesBack {α : Type} {r : OpRow} {pack : α → Word} {f : α → Instr}
    (h : r.Reads pack f) (k : Nat) (hk : baseRows[k]? = some r) {sa : Option Word} (a : α)
    (he : encode sa (f a) = some (pack a)) : DecodesBack sa (f a) :=
  ⟨pack a, he, h.decode_pack hk sa a⟩

/-- Each instruction but SET-ALL by its row of the map, the rows numbered from 0 without SET-ALL's
(R44's row number less 2, but 0 for CLS). -/
theorem decodesBack_of_ne_setAll (sa : Option Word) {i : Instr} (hi : i ≠ .setAll) :
    DecodesBack sa i := by
  cases i with
  | setAll => exact absurd rfl hi
  | cls => exact (reads_z 0x00E0 .cls).decodesBack 0 rfl () rfl
  | ret => exact (reads_z 0x00EE .ret).decodesBack 1 rfl () rfl
  | jump nnn => exact (reads_nnn 0x1 .jump).decodesBack 2 rfl nnn rfl
  | call nnn => exact (reads_nnn 0x2 .call).decodesBack 3 rfl nnn rfl
  | skipEq x nn => exact (reads_xnn 0x3 .skipEq).decodesBack 4 rfl (x, nn) rfl
  | skipNeq x nn => exact (reads_xnn 0x4 .skipNeq).decodesBack 5 rfl (x, nn) rfl
  | skipEqReg x y => exact (reads_xy 0x5 0x0 .skipEqReg).decodesBack 6 rfl (x, y) rfl
  | load x nn => exact (reads_xnn 0x6 .load).decodesBack 7 rfl (x, nn) rfl
  | add x nn => exact (reads_xnn 0x7 .add).decodesBack 8 rfl (x, nn) rfl
  | mov x y => exact (reads_xy 0x8 0x0 .mov).decodesBack 9 rfl (x, y) rfl
  | or x y => exact (reads_xy 0x8 0x1 .or).decodesBack 10 rfl (x, y) rfl
  | and x y => exact (reads_xy 0x8 0x2 .and).decodesBack 11 rfl (x, y) rfl
  | xor x y => exact (reads_xy 0x8 0x3 .xor).decodesBack 12 rfl (x, y) rfl
  | addReg x y => exact (reads_xy 0x8 0x4 .addReg).decodesBack 13 rfl (x, y) rfl
  | sub x y => exact (reads_xy 0x8 0x5 .sub).decodesBack 14 rfl (x, y) rfl
  | shr x y => exact (reads_xy 0x8 0x6 .shr).decodesBack 15 rfl (x, y) rfl
  | subn x y => exact (reads_xy 0x8 0x7 .subn).decodesBack 16 rfl (x, y) rfl
  | shl x y => exact (reads_xy 0x8 0xE .shl).decodesBack 17 rfl (x, y) rfl
  | skipNeqReg x y => exact (reads_xy 0x9 0x0 .skipNeqReg).decodesBack 18 rfl (x, y) rfl
  | loadI nnn => exact (reads_nnn 0xA .loadI).decodesBack 19 rfl nnn rfl
  | jumpOffset nnn => exact (reads_nnn 0xB .jumpOffset).decodesBack 20 rfl nnn rfl
  | rand x nn => exact (reads_xnn 0xC .rand).decodesBack 21 rfl (x, nn) rfl
  | draw x y n => exact (reads_xyn 0xD .draw).decodesBack 22 rfl (x, y, n) rfl
  | skipKey x => exact (reads_x 0xE 0x9E .skipKey).decodesBack 23 rfl x rfl
  | skipNokey x => exact (reads_x 0xE 0xA1 .skipNokey).decodesBack 24 rfl x rfl
  | loadDelay x => exact (reads_x 0xF 0x07 .loadDelay).decodesBack 25 rfl x rfl
  | waitKey x => exact (reads_x 0xF 0x0A .waitKey).decodesBack 26 rfl x rfl
  | setDelay x => exact (reads_x 0xF 0x15 .setDelay).decodesBack 27 rfl x rfl
  | setSound x => exact (reads_x 0xF 0x18 .setSound).decodesBack 28 rfl x rfl
  | addI x => exact (reads_x 0xF 0x1E .addI).decodesBack 29 rfl x rfl
  | fontAddr x => exact (reads_x 0xF 0x29 .fontAddr).decodesBack 30 rfl x rfl
  | bcd x => exact (reads_x 0xF 0x33 .bcd).decodesBack 31 rfl x rfl
  | storeRegs x => exact (reads_x 0xF 0x55 .storeRegs).decodesBack 32 rfl x rfl
  | loadRegs x => exact (reads_x 0xF 0x65 .loadRegs).decodesBack 33 rfl x rfl

/-- Settles O1: SET-ALL by R45's premise on its word, each other instruction by its own row. -/
theorem decodeEncodeRoundTrip : Obligations.DecodeEncodeRoundTrip := by
  unfold Obligations.DecodeEncodeRoundTrip
  intro c i hc hi
  by_cases hs : i = .setAll
  · subst hs
    obtain ⟨v, hv⟩ := Option.isSome_iff_exists.1 hi
    exact ⟨v, hv, decode_setAllWord hc hv⟩
  · exact decodesBack_of_ne_setAll c.setAllWord hs

/-! ## Encoding what was decoded (R43, R44, R47) -/

/-- Every word that selects the row is the encoding of what the row makes of it. -/
def OpRow.EncodesBack (sa : Option Word) (r : OpRow) : Prop :=
  ∀ w, r.hit w = true → encode sa (r.build w) = some w

theorem OpRow.Reads.encodesBack {α : Type} {r : OpRow} {pack : α → Word} {f : α → Instr}
    (h : r.Reads pack f) {sa : Option Word} (he : ∀ a, encode sa (f a) = some (pack a)) :
    r.EncodesBack sa := by
  intro w hw
  obtain ⟨a, rfl⟩ := h.pack_of_hit w hw
  rw [h.build_pack, he]

theorem rowsFixed_encodesBack (sa : Option Word) : rowsFixed.Forall (OpRow.EncodesBack sa) :=
  ⟨(reads_z 0x00E0 .cls).encodesBack fun _ => rfl,
   (reads_z 0x00EE .ret).encodesBack fun _ => rfl⟩

theorem rowsImmediate_encodesBack (sa : Option Word) :
    rowsImmediate.Forall (OpRow.EncodesBack sa) :=
  ⟨(reads_nnn 0x1 .jump).encodesBack fun _ => rfl,
   (reads_nnn 0x2 .call).encodesBack fun _ => rfl,
   (reads_xnn 0x3 .skipEq).encodesBack fun _ => rfl,
   (reads_xnn 0x4 .skipNeq).encodesBack fun _ => rfl,
   (reads_xy 0x5 0x0 .skipEqReg).encodesBack fun _ => rfl,
   (reads_xnn 0x6 .load).encodesBack fun _ => rfl,
   (reads_xnn 0x7 .add).encodesBack fun _ => rfl⟩

theorem rowsAlu_encodesBack (sa : Option Word) : rowsAlu.Forall (OpRow.EncodesBack sa) :=
  ⟨(reads_xy 0x8 0x0 .mov).encodesBack fun _ => rfl,
   (reads_xy 0x8 0x1 .or).encodesBack fun _ => rfl,
   (reads_xy 0x8 0x2 .and).encodesBack fun _ => rfl,
   (reads_xy 0x8 0x3 .xor).encodesBack fun _ => rfl,
   (reads_xy 0x8 0x4 .addReg).encodesBack fun _ => rfl,
   (reads_xy 0x8 0x5 .sub).encodesBack fun _ => rfl,
   (reads_xy 0x8 0x6 .shr).encodesBack fun _ => rfl,
   (reads_xy 0x8 0x7 .subn).encodesBack fun _ => rfl,
   (reads_xy 0x8 0xE .shl).encodesBack fun _ => rfl⟩

theorem rowsUpper_encodesBack (sa : Option Word) : rowsUpper.Forall (OpRow.EncodesBack sa) :=
  ⟨(reads_xy 0x9 0x0 .skipNeqReg).encodesBack fun _ => rfl,
   (reads_nnn 0xA .loadI).encodesBack fun _ => rfl,
   (reads_nnn 0xB .jumpOffset).encodesBack fun _ => rfl,
   (reads_xnn 0xC .rand).encodesBack fun _ => rfl,
   (reads_xyn 0xD .draw).encodesBack fun _ => rfl⟩

theorem rowsLowByte_encodesBack (sa : Option Word) : rowsLowByte.Forall (OpRow.EncodesBack sa) :=
  ⟨(reads_x 0xE 0x9E .skipKey).encodesBack fun _ => rfl,
   (reads_x 0xE 0xA1 .skipNokey).encodesBack fun _ => rfl,
   (reads_x 0xF 0x07 .loadDelay).encodesBack fun _ => rfl,
   (reads_x 0xF 0x0A .waitKey).encodesBack fun _ => rfl,
   (reads_x 0xF 0x15 .setDelay).encodesBack fun _ => rfl,
   (reads_x 0xF 0x18 .setSound).encodesBack fun _ => rfl,
   (reads_x 0xF 0x1E .addI).encodesBack fun _ => rfl,
   (reads_x 0xF 0x29 .fontAddr).encodesBack fun _ => rfl,
   (reads_x 0xF 0x33 .bcd).encodesBack fun _ => rfl,
   (reads_x 0xF 0x55 .storeRegs).encodesBack fun _ => rfl,
   (reads_x 0xF 0x65 .loadRegs).encodesBack fun _ => rfl⟩

theorem baseRows_encodesBack (sa : Option Word) : ∀ r ∈ baseRows, r.EncodesBack sa := by
  simp only [baseRows, ← List.forall_iff_forall_mem, List.forall_append]
  exact ⟨rowsFixed_encodesBack sa, rowsImmediate_encodesBack sa, rowsAlu_encodesBack sa,
    rowsUpper_encodesBack sa, rowsLowByte_encodesBack sa⟩

theorem encode_of_decode {sa : Option Word} {w : Word} {i : Instr} (h : decode sa w = .ok i) :
    encode sa i = some w := by
  obtain ⟨r, hr, hw⟩ | hno := exists_hit_or_no_hit w
  · rw [decode_of_hit sa hr hw, Except.ok.injEq] at h
    exact h ▸ baseRows_encodesBack sa r hr w hw
  · rw [decode_of_no_hit sa hno] at h
    by_cases hsa : sa = some w
    · rw [if_pos hsa, Except.ok.injEq] at h
      exact h ▸ hsa
    · rw [if_neg hsa] at h
      cases h

/-- An instruction has a word exactly on the machines on which it exists (R45). -/
theorem encode_isSome (sa : Option Word) (i : Instr) :
    (encode sa i).isSome = i.wellFormed sa := by
  cases i <;> rfl

/-- Settles O2, by the pattern of the row the word selects. -/
theorem recognizedWordIsItsEncoding : Obligations.RecognizedWordIsItsEncoding := by
  unfold Obligations.RecognizedWordIsItsEncoding
  intro sa w i h
  have he := encode_of_decode h
  exact ⟨he, by rw [← encode_isSome, he, Option.isSome_some]⟩

/-! ## The unrecognized words (R46) -/

/-- `SETALL_WORD` apart, what is unrecognized is unrecognized on the machine without SET-ALL. -/
theorem decode_eq_unrecognized_iff (sa : Option Word) (w : Word) :
    decode sa w = .error (.unrecognized w) ↔
      decode none w = .error (.unrecognized w) ∧ sa ≠ some w := by
  obtain ⟨r, hr, hw⟩ | hno := exists_hit_or_no_hit w
  · simp [decode_of_hit _ hr hw]
  · by_cases hsa : sa = some w <;> simp [decode_of_no_hit _ hno, hsa]

/-- The high nibbles with no unrecognized word (R46); the others have classes (a) to (f). -/
def recognizedNibbles : List Nibble :=
  [0x1#4, 0x2#4, 0x3#4, 0x4#4, 0x6#4, 0x7#4, 0xA#4, 0xB#4, 0xC#4, 0xD#4]

theorem ite_ok_eq_error {p : Prop} [Decidable p] {i : Instr} {o : Except Reject Instr}
    {e : Reject} : (if p then .ok i else o) = .error e ↔ ¬p ∧ o = .error e := by
  by_cases hp : p <;> simp [hp]

section
variable {w : Word}

/-- Class (a). -/
theorem unrecognized_iff_of_nibble1_0 (h : nibble1 w = 0x0) :
    decode none w = .error (.unrecognized w) ↔ w ≠ 0x00E0 ∧ w ≠ 0x00EE := by
  simp [decode_chain, ite_ok_eq_error, h]

/-- Classes (b) and (d). -/
theorem unrecognized_iff_of_nibble1_5_9 (h : nibble1 w = 0x5 ∨ nibble1 w = 0x9) :
    decode none w = .error (.unrecognized w) ↔ nibble4 w ≠ 0 := by
  rcases h with h | h <;> simp [decode_chain, h, ne_fixed]

/-- Class (c): the low nibbles of 8XYn that name no operation. -/
theorem unrecognized_iff_of_nibble1_8 (h : nibble1 w = 0x8) :
    decode none w = .error (.unrecognized w) ↔
      nibble4 w ∈ [8#4, 9#4, 0xA#4, 0xB#4, 0xC#4, 0xD#4, 0xF#4] := by
  have others : ∀ n : Nibble, n ∉ [0#4, 1#4, 2#4, 3#4, 4#4, 5#4, 6#4, 7#4, 0xE#4] ↔
      n ∈ [8#4, 9#4, 0xA#4, 0xB#4, 0xC#4, 0xD#4, 0xF#4] := by decide
  rw [← others]
  simp [decode_chain, ite_ok_eq_error, h, ne_fixed]

/-- Class (e). -/
theorem unrecognized_iff_of_nibble1_E (h : nibble1 w = 0xE) :
    decode none w = .error (.unrecognized w) ↔ fieldNN w ≠ 0x9E ∧ fieldNN w ≠ 0xA1 := by
  simp [decode_chain, ite_ok_eq_error, h, ne_fixed]

/-- Class (f). -/
theorem unrecognized_iff_of_nibble1_F (h : nibble1 w = 0xF) :
    decode none w = .error (.unrecognized w) ↔
      fieldNN w ∉ [0x07#8, 0x0A#8, 0x15#8, 0x18#8, 0x1E#8, 0x29#8, 0x33#8, 0x55#8, 0x65#8] := by
  simp [decode_chain, ite_ok_eq_error, h, ne_fixed]

/-- "Every word with n1 in {1, 2, 3, 4, 6, 7, A, B, C, D} is recognized" (R46). -/
theorem recognized_of_nibble1 (h : nibble1 w ∈ recognizedNibbles) :
    decode none w ≠ .error (.unrecognized w) := by
  simp only [recognizedNibbles, List.mem_cons, List.not_mem_nil, or_false] at h
  rcases h with h | h | h | h | h | h | h | h | h | h <;> simp [decode_chain, h, ne_fixed]

/-- These words are in none of the classes (a) to (f). -/
theorem not_unrecognizedWord_of_nibble1 (h : nibble1 w ∈ recognizedNibbles) :
    ¬ unrecognizedWord w := by
  rintro (⟨hk, -⟩ | ⟨hk, -⟩ | ⟨hk, -⟩ | ⟨hk, -⟩ | ⟨hk, -⟩ | ⟨hk, -⟩) <;>
    exact absurd (hk ▸ h) (by decide)

end

theorem nibble1_classes (k : Nibble) :
    k = 0x0 ∨ k = 0x5 ∨ k = 0x8 ∨ k = 0x9 ∨ k = 0xE ∨ k = 0xF ∨ k ∈ recognizedNibbles := by
  revert k
  decide

/-- Without SET-ALL the unrecognized words are classes (a) to (f), one high nibble at a time. -/
theorem decode_none_eq_unrecognized_iff (w : Word) :
    decode none w = .error (.unrecognized w) ↔ unrecognizedWord w := by
  rcases nibble1_classes (nibble1 w) with h | h | h | h | h | h | h
  · simp [unrecognized_iff_of_nibble1_0 h, unrecognizedWord, h]
  · simp [unrecognized_iff_of_nibble1_5_9 (.inl h), unrecognizedWord, h]
  · simp [unrecognized_iff_of_nibble1_8 h, unrecognizedWord, h]
  · simp [unrecognized_iff_of_nibble1_5_9 (.inr h), unrecognizedWord, h]
  · simp [unrecognized_iff_of_nibble1_E h, unrecognizedWord, h]
  · simp [unrecognized_iff_of_nibble1_F h, unrecognizedWord, h]
  · exact iff_of_false (recognized_of_nibble1 h) (not_unrecognizedWord_of_nibble1 h)

/-- Settles O5: SET-ALL's own word set apart, by the classes of R46. -/
theorem unrecognizedWordsAreExactlyListed : Obligations.UnrecognizedWordsAreExactlyListed := by
  unfold Obligations.UnrecognizedWordsAreExactlyListed
  intro sa w
  rw [decode_eq_unrecognized_iff, decode_none_eq_unrecognized_iff]

/-! ## The spec's vectors (95_test_vectors.md section 2.1) -/

/-- Settles O4, by running the decoder on each listed word. -/
theorem specDecodeVectors : Obligations.SpecDecodeVectors := by
  unfold Obligations.SpecDecodeVectors
  decide

end Sys2Proof
end

section
/-! PROOFS, the step and the tick (40_cycle.md): which instruction a step runs (R50, R51), that a
core whose fault latch is set runs none (R56), and how the slots of a Tick add up (R54, R55). -/

namespace Sys2Proof.Machine

variable {s t u : State} {r : TickResult}

/-! ## The step (R50, R51, R53) -/

/-- Settles O12, by the meaning of each instruction. -/
theorem everyInstructionAnswers : Obligations.EveryInstructionAnswers := by
  unfold Obligations.EveryInstructionAnswers
  exact exec_exists_next

/-- A core that runs executes what it has fetched and decoded, from the advanced ip. -/
theorem step_of_fetchDecode {i : Instr} (hrun : s.Running) (hi : s.fetchDecode = .ok i) :
    step s = exec i s.advanced := by
  obtain ⟨hl, hf⟩ := hrun
  simp only [step, hl, hf, hi, if_true]

/-- Settles O6: the fetched word is the two bytes at ip, big-endian, and the step runs what it
decodes to. -/
theorem stepRunsDecodedInstruction : Obligations.StepRunsDecodedInstruction := by
  unfold Obligations.StepRunsDecodedInstruction
  intro s i hrun hin hd
  exact step_of_fetchDecode hrun (State.fetchDecode_word (State.fetchWord_inside hin) hd)

/-! ## The Tick before its first slot (R54, R56) -/

/-- R56 (decision D7): the latched kind is the Tick's error, and no slot is run. -/
theorem tickWith_of_latched {k : FaultKind} (hl : s.cfg.legal = true) (hk : s.fault = some k)
    (env : List (List HostOp)) : tickWith env s = .next (.error k, s) := by
  simp only [tickWith, hl, hk, if_true]

/-- A Tick that answers has found the latch set, or has gone through its slots. -/
theorem tickWith_cases {env : List (List HostOp)} (h : tickWith env s = .next (r, t)) :
    (∃ k, s.fault = some k ∧ r = .error k ∧ t = s) ∨
      (s.fault = none ∧ tickLoop s.cfg.tickBudget env s = .next (r, t)) := by
  unfold tickWith at h
  split at h
  · split at h
    · next k hk =>
      cases h
      exact .inl ⟨k, hk, rfl, rfl⟩
    · next hf => exact .inr ⟨hf, h⟩
  · cases h

/-- Settles O9, for the step and for the Tick. -/
theorem faultedCoreDoesNotRun : Obligations.FaultedCoreDoesNotRun := by
  unfold Obligations.FaultedCoreDoesNotRun
  intro s k hl hk
  exact ⟨step_of_latched hl hk, tickWith_of_latched hl hk⟩

/-! ## One slot of a Tick with no host operation inside it (R54) -/

/-- A step executed where an instruction was decoded and left the latch clear (R7). -/
theorem stepResult_eq_executed_iff :
    stepResult s t = .executed ↔ (∃ i, s.fetchDecode = .ok i) ∧ t.fault = none := by
  unfold stepResult
  cases s.fetchDecode with
  | error h => simp
  | ok i => cases t.fault <;> simp

/-- A slot whose step executed hands the slots left over to the next state. -/
theorem tickLoop_of_executed (hs : step s = .next u) (hr : stepResult s u = .executed) (n : Nat) :
    tickLoop (n + 1) [] s = tickLoop n [] u := by
  simp only [tickLoop_succ, hs, hr]

/-- A slot whose step halted ends the Tick, however many slots are left. -/
theorem tickLoop_of_halt {h : HaltReason} (hs : step s = .next u) (hr : stepResult s u = .halt h)
    (n : Nat) : tickLoop (n + 1) [] s = .next (.stopped h, u) := by
  simp only [tickLoop_succ, hs, hr]

/-- A slot whose step faulted ends the Tick, however many slots are left. -/
theorem tickLoop_of_fault {k : FaultKind} (hs : step s = .next u) (hr : stepResult s u = .fault k)
    (n : Nat) : tickLoop (n + 1) [] s = .next (.error k, u) := by
  simp only [tickLoop_succ, hs, hr]

/-- Everything the first slot of a burst that answers has done. -/
theorem tickLoop_succ_cases {n : Nat} (h : tickLoop (n + 1) [] s = .next (r, t)) :
    ∃ u, step s = .next u ∧
      ((stepResult s u = .executed ∧ tickLoop n [] u = .next (r, t)) ∨
       (∃ c, stepResult s u = .halt c ∧ r = .stopped c ∧ t = u) ∨
       (∃ k, stepResult s u = .fault k ∧ r = .error k ∧ t = u)) := by
  cases hs : step s with
  | fault f => simp [tickLoop_succ, hs] at h
  | refused f => simp [tickLoop_succ, hs] at h
  | next u =>
    refine ⟨u, rfl, ?_⟩
    cases hr : stepResult s u with
    | executed => exact .inl ⟨rfl, by rwa [tickLoop_of_executed hs hr] at h⟩
    | halt c =>
      rw [tickLoop_of_halt hs hr] at h
      cases h
      exact .inr (.inl ⟨c, rfl, rfl, rfl⟩)
    | fault k =>
      rw [tickLoop_of_fault hs hr] at h
      cases h
      exact .inr (.inr ⟨k, rfl, rfl, rfl⟩)

/-! ## Bursts of slots (R54, R55) -/

/-- Settles O10, by induction on the slots of the first burst, by what its first slot has done. -/
theorem tickCutsAnywhere : Obligations.TickCutsAnywhere := by
  unfold Obligations.TickCutsAnywhere
  intro a b
  induction a with
  | zero =>
    intro s t r h
    cases h
    rw [Nat.zero_add]
  | succ a ih =>
    intro s t r h
    rw [Nat.succ_add]
    obtain ⟨u, hs, ⟨hr, hu⟩ | ⟨c, hr, rfl, rfl⟩ | ⟨k, hr, rfl, rfl⟩⟩ := tickLoop_succ_cases h
    · rw [tickLoop_of_executed hs hr]
      exact ih u t r hu
    · exact tickLoop_of_halt hs hr (a + b)
    · exact tickLoop_of_fault hs hr (a + b)

/-- The first slot of a burst that exhausts its slots executed an instruction. -/
theorem exhausted_succ {n : Nat} (h : tickLoop (n + 1) [] s = .next (.budgetExhausted, t)) :
    ∃ u, step s = .next u ∧ stepResult s u = .executed ∧
      tickLoop n [] u = .next (.budgetExhausted, t) := by
  obtain ⟨u, hs, ⟨hr, hu⟩ | ⟨c, -, hc, -⟩ | ⟨k, -, hk, -⟩⟩ := tickLoop_succ_cases h
  · exact ⟨u, hs, hr, hu⟩
  · cases hc
  · cases hk

/-- The run of the core goes on from the state its first step answers. -/
theorem run_succ_of_step (hs : step s = .next u) (n : Nat) :
    core.run (n + 1) s = core.run n u := by
  have hcore : core.step s = .next u := hs
  simp only [Host.Core.run, hcore]

/-- A burst that exhausts its slots is as many steps of the core. -/
theorem run_of_exhausted {n : Nat} (h : tickLoop n [] s = .next (.budgetExhausted, t)) :
    core.run n s = .next t := by
  induction n generalizing s with
  | zero =>
    cases h
    rfl
  | succ n ih =>
    obtain ⟨u, hs, -, hu⟩ := exhausted_succ h
    rw [run_succ_of_step hs]
    exact ih hu

/-- Every step of a burst that exhausts its slots executed an instruction. -/
theorem executed_of_exhausted {n m : Nat} (h : tickLoop n [] s = .next (.budgetExhausted, t))
    (hm : m < n) :
    ∃ u v, core.run m s = .next u ∧ step u = .next v ∧ stepResult u v = .executed := by
  induction n generalizing s m with
  | zero => exact absurd hm m.not_lt_zero
  | succ n ih =>
    obtain ⟨u, hs, hr, hu⟩ := exhausted_succ h
    cases m with
    | zero => exact ⟨s, u, rfl, hs, hr⟩
    | succ m =>
      rw [run_succ_of_step hs]
      exact ih hu (Nat.lt_of_succ_lt_succ hm)

/-- Settles O11: such a Tick has gone through all its slots, and each of them executed. -/
theorem exhaustedTickRunsItsBudget : Obligations.ExhaustedTickRunsItsBudget := by
  unfold Obligations.ExhaustedTickRunsItsBudget
  intro s t h
  obtain ⟨k, -, hk, -⟩ | ⟨-, hloop⟩ := tickWith_cases h
  · cases hk
  · refine ⟨run_of_exhausted hloop, fun m hm => ?_⟩
    obtain ⟨u, v, hrun, hs, hr⟩ := executed_of_exhausted hloop hm
    obtain ⟨⟨i, hi⟩, hf⟩ := stepResult_eq_executed_iff.mp hr
    exact ⟨u, v, i, hrun, hs, hi, hf⟩

end Sys2Proof.Machine
end

section
/-! PROOFS, display (41_display.md): the whole display cleared and set (R58, R59), what a DRAW whose
bytes are in memory does to each point and to VF, and what a second equal DRAW does (R60). -/

namespace Sys2Proof.Machine

/-! ## DRAW (R60) -/

section

variable (s : State) (x y : Reg) (n : Nibble)

/-- The blit's bit at a point is the sprite bit of the closed form: both take the start coordinates
modulo the display's size, the blit twice. -/
theorem State.blitBit_eq_spriteBit (r : Fin 32) (c : Fin 64) :
    blitBit s.readByte s.i.toNat (s.startCol x) (s.startRow y) n.toNat r c =
      s.spriteBit x y n r c := by
  have hrow : rowOffset (s.startRow y) r = s.spriteRow y r := by
    rw [rowOffset, State.startRow_eq, Nat.mod_mod, State.spriteRow]
  have hcol : colOffset (s.startCol x) c = s.spriteCol x c := by
    rw [colOffset, State.startCol_eq, Nat.mod_mod, State.spriteCol]
  rw [blitBit, hrow, hcol, State.spriteBit]

/-- A point that is set lies under a sprite bit that is set (R60, decision D11). -/
def State.SpriteCollides : Prop :=
  ∃ r c, dispGet s.disp r c = true ∧ s.spriteBit x y n r c = true

/-- The blit in terms of the sprite bits: every point, and the collision. -/
theorem State.blit_spec :
    (∀ r c, dispGet (s.blit x y n).1 r c = (dispGet s.disp r c ^^ s.spriteBit x y n r c)) ∧
    ((s.blit x y n).2 = true ↔ s.SpriteCollides x y n) := by
  have hn : n.toNat ≤ 32 := by
    have := n.isLt
    omega
  obtain ⟨hpoint, hcollision⟩ := drawRows_spec s.readByte s.i.toNat (s.startCol x) (s.startRow y)
    n.toNat hn (s.disp, false)
  simp only [State.blitBit_eq_spriteBit] at hpoint hcollision
  exact ⟨hpoint, hcollision.trans (or_iff_right Bool.false_ne_true)⟩

/-- The state a DRAW leaves whose bytes are all in memory; `exec_draw_in_range` ties it to `exec`. -/
def State.drawn : State :=
  { s with disp := (s.blit x y n).1 }.setV regVF (flagByte (s.blit x y n).2)

variable {s n} in
/-- R60, the sprite's bytes in memory or N = 0. -/
theorem exec_draw_in_range (h : drawInRange s n) :
    exec (.draw x y n) s = .next (s.drawn x y n) :=
  if_pos ((rangeOk_iff s.i n.toNat).2 h)

@[simp] theorem State.drawn_point (r : Fin 32) (c : Fin 64) :
    dispGet (s.drawn x y n).disp r c = (dispGet s.disp r c ^^ s.spriteBit x y n r c) :=
  (s.blit_spec x y n).1 r c

theorem State.drawn_vf : (s.drawn x y n).getV regVF = flagByte (s.blit x y n).2 :=
  State.setV_getV_same _ regVF _

theorem State.drawn_vf_one_or_zero :
    (s.drawn x y n).getV regVF = 1 ∨ (s.drawn x y n).getV regVF = 0 := by
  rw [State.drawn_vf]
  exact (flagByte_or _).symm

theorem State.drawn_vf_eq_one_iff :
    (s.drawn x y n).getV regVF = 1 ↔ s.SpriteCollides x y n := by
  rw [State.drawn_vf, flagByte_eq_one]
  exact (s.blit_spec x y n).2

theorem State.drawn_vf_eq_zero (h : ¬ s.SpriteCollides x y n) :
    (s.drawn x y n).getV regVF = 0 :=
  (s.drawn_vf_one_or_zero x y n).resolve_left (mt (s.drawn_vf_eq_one_iff x y n).1 h)

theorem State.drawn_getV_ne {z : Reg} (hz : z ≠ regVF) : (s.drawn x y n).getV z = s.getV z :=
  State.setV_getV_ne _ hz _

@[simp] theorem State.drawn_i : (s.drawn x y n).i = s.i := rfl

@[simp] theorem State.drawn_readByte (a : Nat) : (s.drawn x y n).readByte a = s.readByte a := rfl

end

/-- Settles O18, by the closed form of the blit. -/
theorem drawXorsSprite : Obligations.DrawXorsSprite := by
  unfold Obligations.DrawXorsSprite
  intro x y n s h
  exact ⟨s.drawn x y n, exec_draw_in_range x y h, s.drawn_point x y n, s.drawn_vf_one_or_zero x y n,
    s.drawn_vf_eq_one_iff x y n, fun _ hz => s.drawn_getV_ne x y n hz, rfl, s.drawn_readByte x y n⟩

/-! ## The same DRAW again (R60) -/

section

variable {s : State} {x y : Reg} {n : Nibble}

/-- A DRAW whose coordinates are not in VF leaves its own sprite where it was. -/
theorem State.drawn_spriteBit (hx : x ≠ regVF) (hy : y ≠ regVF) (r : Fin 32) (c : Fin 64) :
    (s.drawn x y n).spriteBit x y n r c = s.spriteBit x y n r c := by
  have hcol : (s.drawn x y n).spriteCol x c = s.spriteCol x c := by
    rw [State.spriteCol, s.drawn_getV_ne x y n hx, State.spriteCol]
  have hrow : (s.drawn x y n).spriteRow y r = s.spriteRow y r := by
    rw [State.spriteRow, s.drawn_getV_ne x y n hy, State.spriteRow]
  simp only [State.spriteBit, hcol, hrow, State.drawn_i, State.drawn_readByte]

/-- XOR with the same sprite bit twice is the point as it was. -/
theorem State.drawn_drawn_disp (hx : x ≠ regVF) (hy : y ≠ regVF) :
    ((s.drawn x y n).drawn x y n).disp = s.disp :=
  disp_ext fun r c => by
    rw [State.drawn_point, State.drawn_point, State.drawn_spriteBit hx hy, Bool.xor_assoc,
      Bool.xor_self, Bool.xor_false]

theorem State.not_spriteCollides_of_clear (h : ∀ r c, dispGet s.disp r c = false) :
    ¬ s.SpriteCollides x y n := by
  rintro ⟨r, c, hset, -⟩
  exact Bool.false_ne_true ((h r c).symm.trans hset)

/-- On a display that was clear, the points set after a DRAW are its sprite bits, so each of them
collides with the same DRAW again. -/
theorem State.drawn_spriteCollides_iff (hx : x ≠ regVF) (hy : y ≠ regVF)
    (h : ∀ r c, dispGet s.disp r c = false) :
    (s.drawn x y n).SpriteCollides x y n ↔ ∃ r c, s.spriteBit x y n r c = true := by
  simp only [State.SpriteCollides, State.drawn_point, State.drawn_spriteBit hx hy, h,
    Bool.false_xor, and_self]

end

/-- Settles O19: the second DRAW reads the same sprite, XOR undoes itself, and the first DRAW's set
points are the second one's collisions. -/
theorem drawTwiceErases : Obligations.DrawTwiceErases := by
  unfold Obligations.DrawTwiceErases
  intro x y n s h hx hy
  refine ⟨s.drawn x y n, (s.drawn x y n).drawn x y n, exec_draw_in_range x y h,
    exec_draw_in_range x y h, State.drawn_drawn_disp hx hy, fun hclear => ⟨?_, ?_⟩⟩
  · exact s.drawn_vf_eq_zero x y n (State.not_spriteCollides_of_clear hclear)
  · exact ((s.drawn x y n).drawn_vf_eq_one_iff x y n).trans
      (State.drawn_spriteCollides_iff hx hy hclear)

/-! ## CLS and SET-ALL (R58, R59) -/

/-- R58's encoding: `00E0` is the first row of the map. -/
theorem decode_cls (sa : Option Word) : decode sa 0x00E0 = .ok .cls :=
  (reads_z 0x00E0 .cls).decode_pack (k := 0) rfl sa ()

/-- Settles O16, by the row of `00E0` and the cleared display. -/
theorem clsClearsDisplay : Obligations.ClsClearsDisplay := by
  unfold Obligations.ClsClearsDisplay
  exact ⟨decode_cls, fun s =>
    ⟨{ s with disp := dispClear }, rfl, dispGet_dispClear, rfl, sameBytes_of_mem_eq rfl rfl⟩⟩

/-- R45: SET-ALL's only word is `SETALL_WORD`, which a legal configuration decodes as SET-ALL. -/
theorem decode_eq_setAll_iff {c : Config} (hc : c.legal = true) (w : Word) :
    decode c.setAllWord w = .ok .setAll ↔ c.setAllWord = some w := by
  constructor
  · intro h
    exact encode_of_decode h
  · intro h
    exact decode_setAllWord hc h

/-- Settles O17, by SET-ALL's one word and the display set whole. -/
theorem setAllSetsDisplay : Obligations.SetAllSetsDisplay := by
  unfold Obligations.SetAllSetsDisplay
  exact ⟨fun _ hc => decode_eq_setAll_iff hc, fun s =>
    ⟨{ s with disp := dispSetAll }, rfl, dispGet_dispSetAll, rfl, sameBytes_of_mem_eq rfl rfl⟩⟩

end Sys2Proof.Machine
end

section
/-! PROOFS, control flow (42_control_flow.md): the jumps (R64, R70), CALL and RET on a stack with
room and with an address held, and one after the other (R62, R63, R65), and the skips on a
comparison (R66 to R69). -/

namespace Sys2Proof.Machine

/-! ## Words and their instructions (R44) -/

/-- The encoding of an instruction other than SET-ALL decodes to it, whatever `SETALL_WORD` is. -/
theorem decode_of_encode {sa : Option Word} {i : Instr} {w : Word} (hi : i ≠ .setAll)
    (he : encode sa i = some w) : decode sa w = .ok i := by
  obtain ⟨v, hv, hd⟩ := decodesBack_of_ne_setAll sa hi
  cases hv.symm.trans he
  exact hd

/-! ## CALL and RET (R62, R63, R65) -/

section
variable {s : State}

/-- R65, with fewer than 16 addresses held. -/
theorem exec_call_of_room (nnn : Imm12) (hsp : s.sp.val ≠ 16) :
    exec (.call nnn) s = .next ((s.push s.ip).setIp (addrOf nnn)) :=
  if_neg (mt s.sp_eq_sixteen.1 hsp)

/-- R63, with an address held. -/
theorem exec_ret_of_held (hsp : s.sp.val ≠ 0) :
    exec .ret s = .next (s.dropTop.setIp s.top) :=
  if_neg (mt s.sp_eq_zero.1 hsp)

/-- What RET makes of the state a CALL leaves: ip is the address pushed and sp is as before. -/
theorem State.push_setIp_popped (a b : Addr) (hsp : s.sp.val ≠ 16) :
    ((s.push a).setIp b).dropTop.setIp ((s.push a).setIp b).top =
      { s with ip := a, stack := (s.push a).stack } := by
  have htop : ((s.push a).setIp b).top = a := s.push_top a hsp
  have hdrop : ((s.push a).setIp b).dropTop.sp = s.sp := s.push_dropTop_sp a
  rw [htop]
  exact congrArg (fun n => { s with ip := a, sp := n, stack := (s.push a).stack }) hdrop

end

/-- Settles O26: the address pushed is the one popped, sp goes up and down by one, and only the
pushed slot is written. -/
theorem callThenRetRestores : Obligations.CallThenRetRestores := by
  unfold Obligations.CallThenRetRestores
  intro nnn s hsp
  have hheld : ((s.push s.ip).setIp (addrOf nnn)).sp.val ≠ 0 := by
    rw [State.setIp_sp, s.push_sp_val s.ip hsp]
    exact Nat.succ_ne_zero _
  refine ⟨_, _, exec_call_of_room nnn hsp, exec_ret_of_held hheld, ?_, fun k hk => ?_⟩
  · rw [State.push_setIp_popped s.ip (addrOf nnn) hsp]
  · exact (s.push_slot s.ip k).trans (if_neg hk)

/-- Settles O23, by what a push does to sp and to each slot. -/
theorem callPushesReturnAddress : Obligations.CallPushesReturnAddress := by
  unfold Obligations.CallPushesReturnAddress
  intro nnn s hsp
  exact ⟨_, exec_call_of_room nnn hsp, addrOf_toNat nnn, s.push_sp_val s.ip hsp,
    s.push_slot s.ip, rfl, sameBytes_of_mem_eq rfl rfl⟩

/-- Settles O24, by what a pop does to sp and which slot is the top. -/
theorem retPopsReturnAddress : Obligations.RetPopsReturnAddress := by
  unfold Obligations.RetPopsReturnAddress
  intro s hsp
  exact ⟨_, exec_ret_of_held hsp, s.dropTop_sp_val hsp, s.top_eq, rfl,
    sameBytes_of_mem_eq rfl rfl⟩

/-! ## JUMP and JUMP-OFFSET (R64, R70) -/

/-- Settles O21, by the encoding of JUMP and the zero-extended operand. -/
theorem jumpSetsIp : Obligations.JumpSetsIp := by
  unfold Obligations.JumpSetsIp
  exact fun nnn => ⟨fun _ => decode_of_encode nofun rfl, fun s =>
    ⟨s.setIp (addrOf nnn), rfl, addrOf_toNat nnn, rfl, sameBytes_of_mem_eq rfl rfl⟩⟩

/-- Settles O22: the 16-bit sum is the sum of the two numbers, which is at most 0x10FE. -/
theorem jumpOffsetAddsV0 : Obligations.JumpOffsetAddsV0 := by
  unfold Obligations.JumpOffsetAddsV0
  exact fun nnn s => ⟨s.setIp (addrOf nnn + (s.getV regV0).setWidth 16), rfl,
    jumpOffset_toNat nnn (s.getV regV0), rfl, sameBytes_of_mem_eq rfl rfl⟩

/-! ## The skips on a comparison (R66 to R69) -/

/-- A skip when two bytes are equal. -/
theorem State.skipIf_beq (s : State) (a b : Byte) :
    s.skipIf (a == b) = { s with ip := if a.toNat = b.toNat then s.ip + 2 else s.ip } := by
  simp only [State.skipIf_eq, beq_iff_eq, BitVec.toNat_inj]

/-- A skip when two bytes differ. -/
theorem State.skipIf_bne (s : State) (a b : Byte) :
    s.skipIf (a != b) = { s with ip := if a.toNat = b.toNat then s.ip else s.ip + 2 } := by
  simp only [State.skipIf_eq, bne_iff_ne, ne_eq, ite_not, BitVec.toNat_inj]

/-- Settles O27, by the two encodings and the skip of each comparison. -/
theorem skipOnImmediate : Obligations.SkipOnImmediate := by
  unfold Obligations.SkipOnImmediate
  intro x nn
  refine ⟨fun _ => ⟨decode_of_encode nofun rfl, decode_of_encode nofun rfl⟩, fun s => ⟨?_, ?_⟩⟩
  · exact congrArg Host.Outcome.next (s.skipIf_beq (s.getV x) nn)
  · exact congrArg Host.Outcome.next (s.skipIf_bne (s.getV x) nn)

/-- Settles O28, by the two encodings and the skip of each comparison. -/
theorem skipOnRegisters : Obligations.SkipOnRegisters := by
  unfold Obligations.SkipOnRegisters
  intro x y
  refine ⟨fun _ => ⟨decode_of_encode nofun rfl, decode_of_encode nofun rfl⟩, fun s => ⟨?_, ?_⟩⟩
  · exact congrArg Host.Outcome.next (s.skipIf_beq (s.getV x) (s.getV y))
  · exact congrArg Host.Outcome.next (s.skipIf_bne (s.getV x) (s.getV y))

end Sys2Proof.Machine
end

section
/-! PROOFS, ALU (43_alu.md): the instructions that write V[X] alone (R74 to R79, R85), and the five
that write a flag over their result (R73, R80 to R84). -/

namespace Sys2Proof.Machine

/-! ## One register written (R74 to R79, R85) -/

/-- Settles O29, by the three encodings and what a read gives after one register is written. -/
theorem loadAddMovWriteOneRegister : Obligations.LoadAddMovWriteOneRegister := by
  unfold Obligations.LoadAddMovWriteOneRegister
  intro x y nn
  refine ⟨fun _ => ⟨decode_of_encode nofun rfl, decode_of_encode nofun rfl,
    decode_of_encode nofun rfl⟩, fun s => ?_⟩
  have hadd : ((s.setV x (s.getV x + nn)).getV x).toNat =
      ((s.getV x).toNat + nn.toNat) % 256 := by
    rw [State.setV_getV_same, BitVec.toNat_add]
  exact ⟨s.setV x nn, s.setV x (s.getV x + nn), s.setV x (s.getV y), rfl, rfl, rfl,
    s.setV_getV_same x nn, hadd, s.setV_getV_same x _,
    fun z hz => ⟨s.setV_getV_ne hz _, s.setV_getV_ne hz _, s.setV_getV_ne hz _⟩,
    rfl, rfl, rfl, s.setV_readByte x _, s.setV_readByte x _, s.setV_readByte x _⟩

/-- Settles O30, bit by bit in the register written. -/
theorem logicWritesOneRegister : Obligations.LogicWritesOneRegister := by
  unfold Obligations.LogicWritesOneRegister
  intro x y s
  refine ⟨s.setV x (s.getV x ||| s.getV y), s.setV x (s.getV x &&& s.getV y),
    s.setV x (s.getV x ^^^ s.getV y), rfl, rfl, rfl, fun b => ?or, fun b => ?and, fun b => ?xor,
    fun z hz => ⟨s.setV_getV_ne hz _, s.setV_getV_ne hz _, s.setV_getV_ne hz _⟩,
    rfl, rfl, rfl, s.setV_readByte x _, s.setV_readByte x _, s.setV_readByte x _⟩
  case or => rw [State.setV_getV_same, BitVec.getLsbD_or]
  case and => rw [State.setV_getV_same, BitVec.getLsbD_and]
  case xor => rw [State.setV_getV_same, BitVec.getLsbD_xor]

/-- Settles O35: the draw counts one up, and the masked byte is written to V[X]. -/
theorem randMasksDrawnByte : Obligations.RandMasksDrawnByte := by
  unfold Obligations.RandMasksDrawnByte
  intro x nn
  refine ⟨fun _ => decode_of_encode nofun rfl, fun s => ⟨_, rfl, ?_⟩⟩
  exact ⟨State.setV_getV_same _ x _, rfl, fun z hz => State.setV_getV_ne _ hz _, rfl,
    sameBytes_of_mem_eq rfl rfl⟩

/-! ## The arithmetic laws in plain numbers (R72) -/

theorem byte_sub_toNat (a b : Byte) : (a - b).toNat = (a.toNat + 256 - b.toNat) % 256 := by
  rw [BitVec.toNat_sub]
  omega

theorem byte_double_toNat (b : Byte) : (b + b).toNat = 2 * b.toNat % 256 := by
  rw [BitVec.toNat_add, Nat.two_mul]

theorem byte_ushiftRight_one (b : Byte) : b >>> 1 = b / 2 :=
  (BitVec.udiv_twoPow_eq_of_lt (by decide)).symm

theorem byte_shiftLeft_one (b : Byte) : b <<< 1 = b + b :=
  (BitVec.shiftLeft_eq_mul_twoPow b 1).trans BitVec.mul_two

theorem flagByte_toNat (c : Bool) : (flagByte c).toNat = c.toNat := by
  cases c <;> rfl

theorem lowBitFlag_toNat (b : Byte) : (lowBitFlag b).toNat = b.toNat % 2 := by
  rw [lowBitFlag, flagByte_toNat, BitVec.getLsbD, Nat.toNat_testBit, Nat.pow_zero, Nat.div_one]

theorem highBitFlag_toNat (b : Byte) : (highBitFlag b).toNat = b.toNat / 128 := by
  have hb : b.toNat / 128 < 2 := by omega
  rw [highBitFlag, flagByte_toNat, BitVec.getLsbD, Nat.toNat_testBit]
  exact Nat.mod_eq_of_lt hb

theorem lowBitFlag_eq (b : Byte) : lowBitFlag b = b &&& 1 := by
  apply BitVec.eq_of_toNat_eq
  rw [lowBitFlag_toNat, BitVec.toNat_and]
  exact (Nat.and_one_is_mod b.toNat).symm

theorem highBitFlag_eq (b : Byte) : highBitFlag b = if 128 ≤ b then 1 else 0 := by
  have hmsb : b.getLsbD 7 = decide (128 ≤ b) := BitVec.msb_eq_decide b
  simp only [highBitFlag, flagByte, hmsb, decide_eq_true_eq]
  rfl

/-! ## A flag over the result (R73, R80 to R84) -/

section
variable (x y : Reg) (s : State)

/-- R80: the wrapped sum, then the carry. -/
theorem exec_addReg : exec (.addReg x y) s = .next (s.setResultFlag x (s.getV x + s.getV y)
    (if 255 < (s.getV x).toNat + (s.getV y).toNat then 1 else 0)) := by
  rw [← carryFlag_eq]
  rfl

/-- R81: V[X] - V[Y], then not-borrow. -/
theorem exec_sub : exec (.sub x y) s = .next (s.setResultFlag x (s.getV x - s.getV y)
    (if (s.getV y).toNat ≤ (s.getV x).toNat then 1 else 0)) := by
  rw [← notBorrowFlag_eq]
  rfl

/-- R83: V[Y] - V[X], then not-borrow of that subtraction. -/
theorem exec_subn : exec (.subn x y) s = .next (s.setResultFlag x (s.getV y - s.getV x)
    (if (s.getV x).toNat ≤ (s.getV y).toNat then 1 else 0)) := by
  rw [← notBorrowFlag_eq]
  rfl

/-- R82: half of V[Y], then its low bit. -/
theorem exec_shr : exec (.shr x y) s =
    .next (s.setResultFlag x (s.getV y / 2) (lowBitFlag (s.getV y))) := by
  rw [← byte_ushiftRight_one]
  rfl

/-- R84: V[Y] doubled, then its high bit. -/
theorem exec_shl : exec (.shl x y) s =
    .next (s.setResultFlag x (s.getV y + s.getV y) (highBitFlag (s.getV y))) := by
  rw [← byte_shiftLeft_one]
  rfl

/-- R73: the flag stands in VF whatever the destination, the result in any other destination. -/
theorem State.setResultFlag_flag_over_result (r f : Byte) :
    (s.setResultFlag x r f).getV 15 = f ∧ (x ≠ 15 → (s.setResultFlag x r f).getV x = r) :=
  ⟨s.setResultFlag_getV_vf x r f, fun hx => s.setResultFlag_getV_dest hx r f⟩

end

/-- Settles O34: each of the five writes its result and then its flag, both computed from the
values before. -/
theorem flagIsWrittenLast : Obligations.FlagIsWrittenLast := by
  unfold Obligations.FlagIsWrittenLast
  intro x y s
  refine ⟨⟨_, exec_addReg x y s, ?_⟩, ⟨_, exec_sub x y s, ?_⟩, ⟨_, exec_subn x y s, ?_⟩,
    ⟨_, exec_shr x y s, ?_⟩, ⟨_, exec_shl x y s, ?_⟩⟩
  · exact s.setResultFlag_flag_over_result x _ _
  · exact s.setResultFlag_flag_over_result x _ _
  · exact s.setResultFlag_flag_over_result x _ _
  · rw [lowBitFlag_eq]
    exact s.setResultFlag_flag_over_result x _ _
  · rw [highBitFlag_eq]
    exact s.setResultFlag_flag_over_result x _ _

/-- Settles O31, by the encoding and the sum and carry ADD-REG writes. -/
theorem addRegSumAndCarry : Obligations.AddRegSumAndCarry := by
  unfold Obligations.AddRegSumAndCarry
  intro x y
  refine ⟨fun _ => decode_of_encode nofun rfl, fun s => ⟨_, exec_addReg x y s, fun hx => ?sum,
    s.setResultFlag_getV_vf x _ _, fun z hzx hzf => s.setResultFlag_getV_other hzx hzf _ _, rfl,
    s.setResultFlag_readByte x _ _⟩⟩
  case sum => rw [s.setResultFlag_getV_dest hx, BitVec.toNat_add]

/-- Settles O32, by the encodings and the difference and not-borrow each of the two writes. -/
theorem subtractionsAndNotBorrow : Obligations.SubtractionsAndNotBorrow := by
  unfold Obligations.SubtractionsAndNotBorrow
  intro x y
  refine ⟨fun _ => ⟨decode_of_encode nofun rfl, decode_of_encode nofun rfl⟩, fun s =>
    ⟨_, _, exec_sub x y s, exec_subn x y s, fun hx => ⟨?sub, ?subn⟩,
      s.setResultFlag_getV_vf x _ _, s.setResultFlag_getV_vf x _ _,
      fun z hzx hzf => ⟨s.setResultFlag_getV_other hzx hzf _ _,
        s.setResultFlag_getV_other hzx hzf _ _⟩,
      rfl, rfl, s.setResultFlag_readByte x _ _, s.setResultFlag_readByte x _ _⟩⟩
  case sub => rw [s.setResultFlag_getV_dest hx, byte_sub_toNat]
  case subn => rw [s.setResultFlag_getV_dest hx, byte_sub_toNat]

/-- Settles O33, by the encodings and the half and low bit, or double and high bit, of V[Y]. -/
theorem shiftsAndBitShiftedOut : Obligations.ShiftsAndBitShiftedOut := by
  unfold Obligations.ShiftsAndBitShiftedOut
  intro x y
  refine ⟨fun _ => ⟨decode_of_encode nofun rfl, decode_of_encode nofun rfl⟩, fun s =>
    ⟨_, _, exec_shr x y s, exec_shl x y s, fun hx => ⟨?half, ?double⟩, ?lowBit, ?highBit,
      fun z hzx hzf => ⟨s.setResultFlag_getV_other hzx hzf _ _,
        s.setResultFlag_getV_other hzx hzf _ _⟩,
      rfl, rfl, s.setResultFlag_readByte x _ _, s.setResultFlag_readByte x _ _⟩⟩
  case half =>
    rw [s.setResultFlag_getV_dest hx]
    exact BitVec.toNat_udiv
  case double => rw [s.setResultFlag_getV_dest hx, byte_double_toNat]
  case lowBit =>
    exact (congrArg BitVec.toNat (s.setResultFlag_getV_vf x _ _)).trans (lowBitFlag_toNat _)
  case highBit =>
    exact (congrArg BitVec.toNat (s.setResultFlag_getV_vf x _ _)).trans (highBitFlag_toNat _)

end Sys2Proof.Machine
end

section
/-! PROOFS, address register and memory (44_index_memory.md): the three instructions that set I (R86
to R88), the two that store bytes from I up (R89, R90), and LOAD-REGS (R91). -/

namespace Sys2Proof.Machine

/-! ## I assigned (R86 to R88) -/

/-- Settles O36, by the two encodings, the zero-extended operand and the glyph's address. -/
theorem loadIAndFontAddrSetI : Obligations.LoadIAndFontAddrSetI := by
  unfold Obligations.LoadIAndFontAddrSetI
  intro nnn x
  refine ⟨fun _ => ⟨decode_of_encode nofun rfl, decode_of_encode nofun rfl⟩, fun s => ?_⟩
  exact ⟨s.setI (addrOf nnn), s.setI (glyphAddr (s.getV x)), rfl, rfl, addrOf_toNat nnn,
    glyphAddr_toNat (s.getV x), rfl, rfl, s.setI_readByte _, s.setI_readByte _⟩

/-- Settles O37: the 16-bit sum of I and the zero-extended byte. -/
theorem addIWrapsAtSixteenBits : Obligations.AddIWrapsAtSixteenBits := by
  unfold Obligations.AddIWrapsAtSixteenBits
  intro x s
  have hsum : (s.i + (s.getV x).setWidth 16).toNat = (s.i.toNat + (s.getV x).toNat) % 65536 := by
    rw [BitVec.toNat_add, byte_toAddr_toNat]
  exact ⟨s.setI (s.i + (s.getV x).setWidth 16), rfl, hsum, rfl, s.setI_readByte _⟩

/-! ## Bytes stored from I up (R89, R90) -/

section
variable (s : State) {a : Nat} {bs : List Byte}

/-- R28: the `k`-th of the bytes stored from `a` up stands at `a + k`. -/
theorem State.writeBytes_readByte_add (ha : a + bs.length ≤ memSize) {k : Nat}
    (hk : k < bs.length) : (s.writeBytes a bs).readByte (a + k) = bs.getD k 0 := by
  rw [State.writeBytes_readByte s ha, if_pos (by omega), Nat.add_sub_cancel_left]

/-- R28: storing bytes leaves every byte outside their range as it was. -/
theorem State.writeBytes_sameBytesOutside (ha : a + bs.length ≤ memSize) :
    SameBytesOutside s (s.writeBytes a bs) a bs.length := by
  intro c hc
  rw [State.writeBytes_readByte s ha, if_neg (by omega)]

end

/-- R89: each of the three digits as a number, hundreds first. -/
theorem bcdDigits_getD_toNat (b : Byte) (k : Nat) :
    ((bcdDigits b).getD k 0).toNat =
      [b.toNat / 100, b.toNat / 10 % 10, b.toNat % 10].getD k 0 := by
  rw [← bcdDigits_toNat]
  exact (List.getD_map (bcdDigits b) 0 BitVec.toNat).symm

/-- Settles O38: the three digits are the bytes stored from I up. -/
theorem bcdStoresDigits : Obligations.BcdStoresDigits := by
  unfold Obligations.BcdStoresDigits
  intro x s h
  have hstored := fun k (hk : k < 3) => s.writeBytes_readByte_add (bs := bcdDigits (s.getV x)) h hk
  have hdigit := fun k hk =>
    (congrArg BitVec.toNat (hstored k hk)).trans (bcdDigits_getD_toNat (s.getV x) k)
  exact ⟨_, exec_bcd_in_range x h, hdigit 0 (by decide), hdigit 1 (by decide),
    hdigit 2 (by decide), s.writeBytes_sameBytesOutside h, s.writeBytes_eq _ _⟩

/-- Settles O39: V[k] is the `k`-th of the bytes stored from I up. -/
theorem storeRegsWritesBlock : Obligations.StoreRegsWritesBlock := by
  unfold Obligations.StoreRegsWritesBlock
  intro x s h
  have hlen := s.regsUpTo_length x
  have hrange : s.i.toNat + (s.regsUpTo x).length ≤ memSize := hlen.symm ▸ h
  refine ⟨_, exec_storeRegs_in_range h, fun k hk => ?_, ?_, s.writeBytes_eq _ _⟩
  · calc (s.writeBytes s.i.toNat (s.regsUpTo x)).readByte (s.i.toNat + k.toNat)
        = (s.regsUpTo x).getD k.toNat 0 := s.writeBytes_readByte_add hrange (by omega)
      _ = s.getV k := s.regsUpTo_getD x k hk
  · exact hlen ▸ s.writeBytes_sameBytesOutside hrange

/-! ## Registers loaded from I up (R91) -/

/-- R91, its bytes in memory. -/
theorem exec_loadRegs_in_range {s : State} {x : Reg} (h : s.i.toNat + x.toNat < 4096) :
    exec (.loadRegs x) s = .next (s.loadFirst (x.toNat + 1)) :=
  guard_in_range h

/-- R91: loading registers leaves memory as it was. -/
theorem State.loadFirst_sameBytes (s : State) (n : Nat) : SameBytes s (s.loadFirst n) := by
  rw [State.loadFirst_eq]
  exact sameBytes_of_mem_eq rfl rfl

/-- Settles O40, by what loading the first X + 1 registers does to a register up to X and to one
above it. -/
theorem loadRegsReadsBlock : Obligations.LoadRegsReadsBlock := by
  unfold Obligations.LoadRegsReadsBlock
  intro x s h
  have hload := s.loadFirst_getV (n := x.toNat + 1) x.isLt
  exact ⟨_, exec_loadRegs_in_range h,
    fun k hk => (hload k).trans (if_pos (Nat.lt_succ_of_le hk)),
    fun k hk => (hload k).trans (if_neg (Nat.not_lt_of_le hk)),
    s.loadFirst_eq _, s.loadFirst_sameBytes _⟩

end Sys2Proof.Machine
end

section
/-! PROOFS, keyboard and timers (45_keyboard_timer.md): the skips on a key's level (R92, R93), the
three moves between a register and a timer (R94, R96, R97), and WAIT-KEY (R95). -/

namespace Sys2Proof.Machine

/-! ## Skips on a key's level (R92, R93) -/

/-- A skip when a condition is not met. -/
theorem State.skipIf_not (s : State) (c : Bool) :
    s.skipIf (!c) = { s with ip := if c then s.ip else s.ip + 2 } := by
  cases c <;> rfl

/-- Settles O42, by the two encodings and the key that the low nibble of V[X] names. -/
theorem skipOnKeyLevel : Obligations.SkipOnKeyLevel := by
  unfold Obligations.SkipOnKeyLevel
  intro x
  refine ⟨fun _ => ⟨decode_of_encode nofun rfl, decode_of_encode nofun rfl⟩, fun s k hk => ?_⟩
  have hkey : s.keyDown (s.keyOperand x) = s.key[k] := s.keyDown_eq x k hk
  constructor
  · calc exec (.skipKey x) s
        = .next (s.skipIf (s.keyDown (s.keyOperand x))) := rfl
      _ = _ := by rw [hkey, State.skipIf_eq]
  · calc exec (.skipNokey x) s
        = .next (s.skipIf (!s.keyDown (s.keyOperand x))) := rfl
      _ = _ := by rw [hkey, State.skipIf_not]

/-! ## One register written (R94, R95) -/

/-- Writing a register is the only change, and it leaves memory as it was. -/
theorem State.setV_frame (s : State) (x : Reg) (b : Byte) :
    (∀ z, z ≠ x → (s.setV x b).getV z = s.getV z) ∧
      s.setV x b = { s with v := (s.setV x b).v } ∧ SameBytes s (s.setV x b) :=
  ⟨fun _ hz => s.setV_getV_ne hz b, rfl, s.setV_readByte x b⟩

/-- Settles O43, by the three encodings and what a read gives after one register is written. -/
theorem timerInstructionsMoveOneByte : Obligations.TimerInstructionsMoveOneByte := by
  unfold Obligations.TimerInstructionsMoveOneByte
  intro x
  refine ⟨fun _ => ⟨decode_of_encode nofun rfl, decode_of_encode nofun rfl,
    decode_of_encode nofun rfl⟩, fun s => ⟨?_, rfl, rfl⟩⟩
  exact ⟨s.setV x s.dt, rfl, s.setV_getV_same x s.dt, s.setV_frame x s.dt⟩

/-! ## WAIT-KEY (R95) -/

/-- R50: taking ip back by 2 undoes the advance made before the instruction ran. -/
theorem State.advanced_setIp_back (s : State) :
    s.advanced.setIp (s.advanced.ip - 2) = { s with started := true } :=
  congrArg (fun a => { s with ip := a, started := true }) (BitVec.add_sub_cancel s.ip 2)

/-- Settles O44: with the latch empty, a step advances ip and WAIT-KEY takes it back. -/
theorem waitKeyCompletesOrRetries : Obligations.WaitKeyCompletesOrRetries := by
  unfold Obligations.WaitKeyCompletesOrRetries
  intro x s
  refine ⟨fun k hk => ?latched, fun hk => ⟨execWaitKey_none hk, fun hrun hi => ?retry⟩⟩
  case latched =>
    refine ⟨_, execWaitKey_some hk, ?_, s.setV_frame x _⟩
    rw [State.setV_getV_same]
    exact BitVec.toNat_setWidth_of_le (by decide)
  case retry =>
    calc step s
        = exec (.waitKey x) s.advanced := step_of_fetchDecode hrun hi
      _ = .next (s.advanced.setIp (s.advanced.ip - 2)) := execWaitKey_none hk
      _ = .next { s with started := true } := by rw [State.advanced_setIp_back]

end Sys2Proof.Machine
end

section
/-! PROOFS, exceptions and the host boundary (60_exceptions.md): the halts (R99, R100), the faults
(R101 to R106), TimerPulse, Press and Release (R111 to R113), and the invariant along every history
of host events (R116). -/

namespace Sys2Proof.Machine

variable {i : Instr} {s t u : State} {k : FaultKind} {r : TickResult}

/-! ## The faults of the stack (R101, R102) -/

/-- R101. -/
theorem exec_call_of_full (nnn : Imm12) (hsp : s.sp.val = 16) :
    exec (.call nnn) s = .next { s with fault := some .stackOverflow } :=
  if_pos (s.sp_eq_sixteen.2 hsp)

/-- R102. -/
theorem exec_ret_of_empty (hsp : s.sp.val = 0) :
    exec .ret s = .next { s with fault := some .stackUnderflow } :=
  if_pos (s.sp_eq_zero.2 hsp)

/-- Settles O25, by the guards of CALL and RET. -/
theorem stackBoundsFault : Obligations.StackBoundsFault := by
  unfold Obligations.StackBoundsFault
  exact fun s => ⟨exec_call_of_full, exec_ret_of_empty⟩

/-! ## Faults are precise (R101 to R106) -/

@[simp] theorem State.writeBytes_fault (s : State) (a : Nat) (bs : List Byte) :
    (s.writeBytes a bs).fault = s.fault := by
  rw [State.writeBytes_eq]

@[simp] theorem State.loadFirst_fault (s : State) (n : Nat) :
    (s.loadFirst n).fault = s.fault := by
  rw [State.loadFirst_eq]

/-- The causes of a fault: `FaultCause s i k` says that `i` on `s` meets the conditions R101 to R103
give for `k`. `FaultCause.of_exec` ties it to `exec`. -/
inductive FaultCause (s : State) : Instr → FaultKind → Prop where
  /-- R101. -/
  | call (nnn : Imm12) (hsp : s.sp.val = 16) : FaultCause s (.call nnn) .stackOverflow
  /-- R102. -/
  | ret (hsp : s.sp.val = 0) : FaultCause s .ret .stackUnderflow
  /-- R103; a sprite of no rows touches no byte. -/
  | draw (x y : Reg) (n : Nibble) (hn : n.toNat ≠ 0) (h : 4096 < s.i.toNat + n.toNat) :
      FaultCause s (.draw x y n) .memOutOfRange
  /-- R103, for the three digits. -/
  | bcd (x : Reg) (h : 4096 < s.i.toNat + 3) : FaultCause s (.bcd x) .memOutOfRange
  /-- R103, for `V[0]` to `V[X]`. -/
  | storeRegs (x : Reg) (h : 4096 ≤ s.i.toNat + x.toNat) :
      FaultCause s (.storeRegs x) .memOutOfRange
  /-- R103, for `V[0]` to `V[X]`. -/
  | loadRegs (x : Reg) (h : 4096 ≤ s.i.toNat + x.toNat) :
      FaultCause s (.loadRegs x) .memOutOfRange

/-- R105: the only effect that sets a clear latch changes nothing else. -/
theorem Effect.eq_of_fault_set (e : Effect s i t) (hs : s.fault = none) (ht : t.fault = some k) :
    t = { s with fault := some k } := by
  cases e with
  | fault j =>
    cases ht
    rfl
  | _ => cases hs.symm.trans ht

/-- A guarded access that sets a clear latch is one of at least one byte that passes the end of
memory (R31, R103). -/
theorem guard_fault_set {a : Addr} {n : Nat}
    (h : (if rangeOk a n then .next u else raiseFault .memOutOfRange s) = (.next t : Answer))
    (hu : u.fault = none) (ht : t.fault = some k) :
    k = .memOutOfRange ∧ n ≠ 0 ∧ 4096 < a.toNat + n := by
  split at h
  · cases h
    cases hu.symm.trans ht
  · next hbad =>
    cases h
    rw [rangeOk_iff] at hbad
    exact ⟨(Option.some.inj ht).symm, by omega⟩

/-- R104: an instruction that sets a clear latch met a cause of the kind it set. -/
theorem FaultCause.of_exec (hs : s.fault = none) (h : exec i s = .next t)
    (ht : t.fault = some k) : FaultCause s i k := by
  cases i with
  | call nnn =>
    by_cases hsp : s.sp.val = 16
    · cases (exec_call_of_full nnn hsp).symm.trans h
      cases ht
      exact .call nnn hsp
    · cases (exec_call_of_room nnn hsp).symm.trans h
      cases hs.symm.trans ht
  | ret =>
    by_cases hsp : s.sp.val = 0
    · cases (exec_ret_of_empty hsp).symm.trans h
      cases ht
      exact .ret hsp
    · cases (exec_ret_of_held hsp).symm.trans h
      cases hs.symm.trans ht
  | draw x y n =>
    obtain ⟨rfl, hn, hpast⟩ := guard_fault_set h hs ht
    exact .draw x y n hn hpast
  | bcd x =>
    obtain ⟨rfl, -, hpast⟩ := guard_fault_set h ((s.writeBytes_fault _ _).trans hs) ht
    exact .bcd x hpast
  | storeRegs x =>
    obtain ⟨rfl, -, hpast⟩ := guard_fault_set h ((s.writeBytes_fault _ _).trans hs) ht
    exact .storeRegs x (by omega)
  | loadRegs x =>
    obtain ⟨rfl, -, hpast⟩ := guard_fault_set h ((s.loadFirst_fault _).trans hs) ht
    exact .loadRegs x (by omega)
  | _ => cases (((exec_effect h).fault_eq rfl).trans hs).symm.trans ht

/-- Settles O14: the latch is the only change, and each cause is one of the statement's. -/
theorem faultsArePrecise : Obligations.FaultsArePrecise := by
  unfold Obligations.FaultsArePrecise
  intro i s t k hs h ht
  refine ⟨(exec_effect h).eq_of_fault_set hs ht, ?_⟩
  cases FaultCause.of_exec hs h ht with
  | call nnn hsp => exact ⟨⟨nnn, rfl⟩, hsp⟩
  | ret hsp => exact ⟨rfl, hsp⟩
  | draw x y n hn hpast => exact .inl ⟨x, y, n, rfl, hn, hpast⟩
  | bcd x hpast => exact .inr (.inl ⟨x, rfl, hpast⟩)
  | storeRegs x hpast => exact .inr (.inr ⟨x, .inl rfl, hpast⟩)
  | loadRegs x hpast => exact .inr (.inr ⟨x, .inr rfl, hpast⟩)

/-! ## A Tick whose first step ends it (R54, R98) -/

/-- R54: a legal budget is at least 1. -/
theorem tickBudget_pos_of_legal {c : Config} (hc : c.legal = true) : 1 ≤ c.tickBudget := by
  obtain ⟨hbudget, -⟩ := Bool.and_eq_true_iff.1 hc
  exact of_decide_eq_true hbudget

/-- A Tick of a running core has at least one slot. -/
theorem tick_of_running (hrun : s.Running) : ∃ n, tick s = tickLoop (n + 1) [] s := by
  obtain ⟨hl, hf⟩ := hrun
  have hbudget := Nat.sub_add_cancel (tickBudget_pos_of_legal hl)
  refine ⟨s.cfg.tickBudget - 1, ?_⟩
  simp only [tick, tickWith, hl, hf, if_true, hbudget]

/-- A step that fetched no instruction has halted (R50). -/
theorem stepResult_of_halt {h : HaltReason} (hd : s.fetchDecode = .error h) :
    stepResult s t = .halt h := by
  simp only [stepResult, hd]

/-- An instruction that left the latch set has faulted (R50). -/
theorem stepResult_of_fault (hd : s.fetchDecode = .ok i) (ht : t.fault = some k) :
    stepResult s t = .fault k := by
  simp only [stepResult, hd, ht]

/-! ## The halts (R99, R100) -/

/-- A halt only advances ip, and the Tick is over (decision D4). -/
theorem halts_of_fetchDecode {h : HaltReason} (hrun : s.Running) (hd : s.fetchDecode = .error h) :
    step s = .next s.advanced ∧ tick s = .next (.stopped h, s.advanced) := by
  obtain ⟨hl, hf⟩ := hrun
  have hstep : step s = .next s.advanced := by simp only [step, hl, hf, hd, if_true]
  obtain ⟨n, htick⟩ := tick_of_running ⟨hl, hf⟩
  exact ⟨hstep, htick.trans (tickLoop_of_halt hstep (stepResult_of_halt hd) n)⟩

/-- R30: past memory there is no word to decode. -/
theorem State.fetchDecode_outside (h : ¬ s.ip.toNat + 1 < memSize) :
    s.fetchDecode = .error .fetchOutOfRange := by
  simp only [State.fetchDecode, State.fetchWord_outside h]

/-- R52: a fetched word that is rejected is unrecognized. -/
theorem State.fetchDecode_rejected {w : Word} {e : Reject} (hw : s.fetchWord = some w)
    (hd : decode s.cfg.setAllWord w = .error e) : s.fetchDecode = .error .unrecognized := by
  simp only [State.fetchDecode, hw, hd]

/-- Settles O7: past 4094 no word is fetched, and the step halts. -/
theorem fetchPastMemoryHalts : Obligations.FetchPastMemoryHalts := by
  unfold Obligations.FetchPastMemoryHalts
  intro s hrun hip
  have hout : ¬ s.ip.toNat + 1 < memSize := by
    unfold memSize
    omega
  exact halts_of_fetchDecode hrun (State.fetchDecode_outside hout)

/-- Settles O8: the word is fetched and rejected, and the step halts. -/
theorem unrecognizedWordHalts : Obligations.UnrecognizedWordHalts := by
  unfold Obligations.UnrecognizedWordHalts
  rintro s w hrun hin rfl hd
  exact halts_of_fetchDecode hrun (State.fetchDecode_rejected (State.fetchWord_inside hin) hd)

/-! ## The faulting step (R104, R106) -/

/-- Settles O15: a halt leaves the latch clear, so an instruction ran, from the advanced ip, and by
`Effect.eq_of_fault_set` it changed the latch alone. -/
theorem faultingStepLeavesItsAddress : Obligations.FaultingStepLeavesItsAddress := by
  unfold Obligations.FaultingStepLeavesItsAddress
  intro s t k hrun h ht
  obtain ⟨-, hf, ⟨r, -, rfl⟩ | ⟨i, hi, hexec⟩⟩ := step_cases h
  · cases hf.symm.trans ht
  · obtain ⟨n, htick⟩ := tick_of_running hrun
    exact ⟨(exec_effect hexec).eq_of_fault_set hf ht,
      htick.trans (tickLoop_of_fault h (stepResult_of_fault hi ht) n)⟩

/-! ## TimerPulse, Press and Release (R111 to R113) -/

/-- R111: one less, or 0 at 0. -/
theorem countDown_toNat (b : Byte) : (countDown b).toNat = b.toNat - 1 := by
  unfold countDown
  split
  · next h => rw [h]; rfl
  · next h => bv_omega

/-- Settles O45, by what a decrement does to each timer. -/
theorem timerPulseSaturates : Obligations.TimerPulseSaturates := by
  unfold Obligations.TimerPulseSaturates
  exact fun s => ⟨countDown_toNat s.dt, countDown_toNat s.st, rfl⟩

/-- Settles O46, by what setting one key's level does to every level. -/
theorem pressAndRelease : Obligations.PressAndRelease := by
  unfold Obligations.PressAndRelease
  exact fun s k => ⟨fun j => s.setKey_keyDown k j true, rfl, rfl,
    fun j => s.setKey_keyDown k j false, rfl, rfl⟩

/-! ## The invariant along a history (R116) -/

/-- Bytes written one after another keep memory canonical and touch nothing else. -/
theorem State.Inv.writeBytes (hinv : s.Inv) (a : Nat) (bs : List Byte) :
    (s.writeBytes a bs).Inv := by
  obtain ⟨hlegal, hwf, hstack⟩ := hinv
  rw [State.writeBytes_eq]
  exact ⟨hlegal, State.writeBytes_wf hwf a bs, hstack⟩

/-- R121: Reset keeps the configuration, and the reset state meets the invariant on it. -/
theorem State.Inv.hostReset (hinv : s.Inv) : s.hostReset.Inv := by
  obtain ⟨hlegal, -⟩ := hinv
  exact State.resetWith_inv hlegal

/-- R111 to R113: the timers and the keyboard are no part of the invariant. -/
theorem State.Inv.hostOp (hinv : s.Inv) (o : HostOp) : (s.hostOp o).Inv := by
  cases o with
  | reset => exact hinv.hostReset
  | timerPulse | press | release => exact hinv

theorem State.Inv.hostOps (hinv : s.Inv) (ops : List HostOp) : (s.hostOps ops).Inv :=
  List.foldlRecOn ops State.hostOp hinv fun _ hu o _ => hu.hostOp o

/-- A slot with host operations before its step either ends the Tick where its step did, or hands
the slots left over to the next state. -/
theorem tickLoop_step_cases {n : Nat} {env : List (List HostOp)}
    (h : tickLoop (n + 1) env s = .next (r, t)) :
    ∃ u, step (s.hostOps (env.headD [])) = .next u ∧
      (t = u ∨ tickLoop n env.tail u = .next (r, t)) := by
  rw [tickLoop] at h
  split at h
  · next u hu =>
    refine ⟨u, hu, ?_⟩
    split at h
    · exact .inr h
    · cases h
      exact .inl rfl
    · cases h
      exact .inl rfl
  · cases h
  · cases h

/-- R54: the slots of a Tick keep the invariant, by induction on them. -/
theorem State.Inv.of_tickLoop {n : Nat} {env : List (List HostOp)} (hinv : s.Inv)
    (h : tickLoop n env s = .next (r, t)) : t.Inv := by
  induction n generalizing env s with
  | zero =>
    cases h
    exact hinv
  | succ n ih =>
    obtain ⟨u, hstep, hu⟩ := tickLoop_step_cases h
    have huinv : u.Inv := stepKeepsInv _ u (hinv.hostOps _) hstep
    obtain rfl | hrest := hu
    · exact huinv
    · exact ih huinv hrest

theorem State.Inv.of_tickWith {env : List (List HostOp)} (hinv : s.Inv)
    (h : tickWith env s = .next (r, t)) : t.Inv := by
  obtain ⟨k, -, -, rfl⟩ | ⟨-, hloop⟩ := tickWith_cases h
  · exact hinv
  · exact hinv.of_tickLoop hloop

/-- R38: a Load that is given a meaning has stored its bytes from the load base up. -/
theorem State.hostLoad_eq_next {bytes : List Byte} (h : s.hostLoad bytes = .next t) :
    t = s.writeBytes loadBase bytes := by
  unfold State.hostLoad at h
  split at h
  · cases h
  · split at h <;> cases h
    rfl

/-- An event that is a Tick has left the state its Tick did. -/
theorem State.act_tick {env : List (List HostOp)} (h : s.act (.tick env) = .next t) :
    ∃ r, tickWith env s = .next (r, t) := by
  rw [State.act] at h
  split at h <;> cases h
  next r hr => exact ⟨r, hr⟩

theorem State.Inv.of_act {e : Event} (hinv : s.Inv) (h : s.act e = .next t) : t.Inv := by
  cases e with
  | tick env =>
    obtain ⟨r, hr⟩ := State.act_tick h
    exact hinv.of_tickWith hr
  | op o =>
    cases h
    exact hinv.hostOp o
  | load bytes =>
    rw [State.hostLoad_eq_next h]
    exact hinv.writeBytes loadBase bytes

/-- A history with a first event goes on from the state that event leaves. -/
theorem State.history_cons {e : Event} {es : List Event} (h : s.history (e :: es) = .next t) :
    ∃ u, s.act e = .next u ∧ u.history es = .next t := by
  rw [State.history] at h
  split at h
  · next u hu => exact ⟨u, hu, h⟩
  · cases h
  · cases h

/-- Settles O52, by induction on the events: each one keeps the invariant. -/
theorem historyKeepsInv : Obligations.HistoryKeepsInv := by
  unfold Obligations.HistoryKeepsInv
  intro es
  induction es with
  | nil =>
    intro s t hinv h
    cases h
    exact hinv
  | cons e es ih =>
    intro s t hinv h
    obtain ⟨u, hact, hrest⟩ := State.history_cons h
    exact ih u t (hinv.of_act hact) hrest

end Sys2Proof.Machine
end

section
/-! PROOFS, reset and the first fetches after it (70_reset_and_hazards.md): what R121 puts in every
piece of state, and the halts on memory with nothing loaded (R122, R123). -/

namespace Sys2Proof.Machine

/-! ## The contents of memory at reset (R25) -/

/-- Where no byte is listed, memory reads as at reset. -/
theorem State.readByte_of_mem_nil {s : State} (h : s.mem = []) (a : Nat) :
    s.readByte a = memBackground s.cfg.fontTable a := by
  rw [State.readByte, h]
  rfl

/-- R25, R26: the font table stands from `FONT_BASE` up. -/
theorem memBackground_font (font : FontTable) (k : Fin 80) :
    memBackground font (0x050 + k.val) = font[k] := by
  have hin : fontBase ≤ 0x050 + k.val ∧ 0x050 + k.val < fontBase + 80 := by
    unfold fontBase
    omega
  rw [memBackground, if_pos hin]
  simp [fontBase, Vector.getD]

theorem memBackground_below_font (font : FontTable) {a : Nat} (h : a < 0x050) :
    memBackground font a = 0 :=
  if_neg fun ⟨hbase, _⟩ => absurd hbase (Nat.not_le.2 h)

theorem memBackground_above_font (font : FontTable) {a : Nat} (h : 0x0A0 ≤ a) :
    memBackground font a = 0 :=
  if_neg fun ⟨_, hend⟩ => absurd h (Nat.not_le.2 hend)

/-! ## Reset (R121, R22) -/

/-- Settles O48: no byte is listed after Reset, so memory reads as R25 gives it, and every other
piece of state is the one R22 names. -/
theorem hostResetRestoresEverything : Obligations.HostResetRestoresEverything := by
  unfold Obligations.HostResetRestoresEverything
  intro s t
  have hread : ∀ a, t.readByte a = memBackground s.cfg.fontTable a :=
    State.readByte_of_mem_nil rfl
  refine ⟨fun x => ?registers, rfl, rfl, rfl, fun k => ?slots, rfl, rfl, fun a ha => ?below,
    fun k => ?font, fun a ha _ => ?above, dispGet_dispClear, fun k => ?keys, rfl, rfl, rfl⟩
  case registers => exact Vector.getElem_replicate x.isLt
  case slots => exact Vector.getElem_replicate k.isLt
  case below => rw [hread, memBackground_below_font _ ha]
  case font => rw [hread, memBackground_font]
  case above => rw [hread, memBackground_above_font _ ha]
  case keys => exact Vector.getElem_replicate k.isLt

/-! ## Ticks on memory with nothing loaded (R123) -/

/-- Past the font the fetched word is 0x0000, which matches no row where SET-ALL is absent. -/
theorem tick_of_nothing_loaded {s : State} (hrun : s.Running) (hmem : s.mem = [])
    (hset : s.cfg.setAllWord = none) (hlow : 0x0A0 ≤ s.ip.toNat) (hhigh : s.ip.toNat + 1 < 4096) :
    tick s = .next (.stopped .unrecognized, s.advanced) := by
  have hzero : ∀ a, 0x0A0 ≤ a → s.readByte a = 0 := fun a ha =>
    (State.readByte_of_mem_nil hmem a).trans (memBackground_above_font _ ha)
  have hword : (0x0000 : Word) = s.readByte s.ip.toNat ++ s.readByte (s.ip.toNat + 1) := by
    rw [hzero _ hlow, hzero _ (by omega)]
    rfl
  have hreject : decode s.cfg.setAllWord 0x0000 = .error (.unrecognized 0x0000) := by
    rw [hset]
    decide
  exact (unrecognizedWordHalts s 0x0000 hrun hhigh hword hreject).2

/-- Settles O49: both ticks fetch past the font, the second from the ip the first has left. -/
theorem resetFetchesAtLoadBase : Obligations.ResetFetchesAtLoadBase := by
  unfold Obligations.ResetFetchesAtLoadBase
  have hrun : State.reset.Running := by decide
  exact ⟨rfl, tick_of_nothing_loaded hrun rfl rfl (by decide) (by decide),
    tick_of_nothing_loaded hrun rfl rfl (by decide) (by decide)⟩

end Sys2Proof.Machine
end
